-- ==== Sys2Proof/Word.lean ====
section
/-! DEFINITION. The byte and the 16-bit number of a command frame, and `Table`: a fixed number of like
records, numbered from 0, as the guide keeps its stations, bindings, circuits, groups and presets. -/
namespace Sys2Proof

/-- One byte of a frame or a message. -/
abbrev Byte := BitVec 8

/-- A two-byte number of a command frame (R183: low byte first). -/
abbrev Half := BitVec 16

/-- `n` records of one type, numbered 0 to `n - 1`. The length is carried as a proof, so a write inside
the table is always read back and no relation between fields of the state is needed for it. -/
structure Table (α : Type) (n : Nat) where
  cells : List α
  size_eq : cells.length = n
  deriving DecidableEq, Repr

namespace Table

variable {α β : Type} {n : Nat}

/-- Every record equal to `v`. -/
def fill (n : Nat) (v : α) : Table α n := ⟨List.replicate n v, List.length_replicate⟩

/-- The record numbered `i`; `d` when the table has no such record. -/
def get (t : Table α n) (d : α) (i : Nat) : α := t.cells.getD i d

/-- The table with record `i` replaced; unchanged when it has no such record. -/
def set (t : Table α n) (i : Nat) (v : α) : Table α n :=
  ⟨t.cells.set i v, by rw [List.length_set, t.size_eq]⟩

/-- `f` applied to every record. -/
def map (f : α → β) (t : Table α n) : Table β n :=
  ⟨t.cells.map f, by rw [List.length_map, t.size_eq]⟩

/-- `f` applied to every item of a list with its number, counting from `k`. -/
def mapFrom (f : Nat → α → β) : Nat → List α → List β
  | _, [] => []
  | k, x :: xs => f k x :: mapFrom f (k + 1) xs

theorem length_mapFrom (f : Nat → α → β) (k : Nat) (l : List α) :
    (mapFrom f k l).length = l.length := by
  induction l generalizing k with
  | nil => rfl
  | cons x xs ih => simp [mapFrom, ih]

/-- `f` applied to every record with its number. -/
def mapNumbered (f : Nat → α → β) (t : Table α n) : Table β n :=
  ⟨mapFrom f 0 t.cells, by rw [length_mapFrom, t.size_eq]⟩

/-- The table whose record `i` is `f i`. -/
def tabulate (n : Nat) (f : Nat → α) : Table α n :=
  ⟨(List.range n).map f, by rw [List.length_map, List.length_range]⟩

end Table

end Sys2Proof
end

