-- ==== Sys2Proof/Config.lean ====
section
/-! DEFINITION. What one SB-384 fixes: the capacities of the number space (00_scope.md), the periods of its
timers in clock ticks, and the free values: what the guide leaves open, as constants with no body. -/
namespace Sys2Proof.Config

/-- The number space of 00_scope.md. -/
abbrev circuits : Nat := 384
abbrev racks : Nat := 4
abbrev slotsPerRack : Nat := 96
abbrev stationSlots : Nat := 128
abbrev bindings : Nat := 1024
abbrev groups : Nat := 64
abbrev groupSize : Nat := 32
abbrev presets : Nat := 48
abbrev presetSize : Nat := 64
abbrev poolSize : Nat := 512
abbrev queueSize : Nat := 32

/-- Ticks of the model's clock, 1.25 ms each (DESIGN CHOICE, log 3). 10 ms is 8 ticks. -/
abbrev ticksPer10ms : Nat := 8
/-- The fade-step timer and each rack's refresh timer: 25 ms (R75, R157). -/
abbrev fadeTicks : Nat := 20
abbrev refreshTicks : Nat := 20
/-- The offset of rack r's first refresh is r × 6.25 ms (R157). -/
abbrev refreshOffset : Nat := 5
/-- The minute timer and the fault minute timer: 60 s (R83, R166). -/
abbrev minuteTicks : Nat := 48000
/-- The show lock's period P lasts P × 100 ms, its closed half P × 50 ms (R150). -/
abbrev lockTicks (period : Nat) : Nat := 80 * period
abbrev closedTicks (period : Nat) : Nat := 40 * period
/-- A store write completes at most 2 s after its SAVE (R194). -/
abbrev writeTicks : Nat := 1600

/-- FREE VALUE (log 4): the low ten bits in which READ_SENSE returns a reference number above 1023, a
number R183 gives ten bits and no rule for. -/
opaque wideReference : Nat → BitVec 10

/-- FREE VALUE (log 5): whether LOCK_RENEW's reported time, "in units of 10 ms" (R149), is rounded up for an
elapsed time that is no whole number of units. -/
opaque timeRoundsUp : Nat → Bool

/-- FREE VALUE (log 6): the bit that says "new" in PRESET_SET_ENTRY's "whether the entry was new or
replaced" (R123); "replaced" is the other one. -/
opaque newEntryBit : Bool

/-- FREE VALUE (log 6): the bit that marks a fresh issue in RETARGET's result (R170); a re-issue (R176) has the
other one. -/
opaque freshIssueBit : Bool

/-- FREE VALUE (log 7): whether a SET_MODE that names the current mode returns that mode twice or no data
(R138 states the data only for a change of mode). -/
opaque reportsUnchangedMode : Bool

end Sys2Proof.Config
end

