-- ==== Sys2Proof/Syntax.lean ====
section
/-! DEFINITION. The commands of the SB-384: one constructor of `Instr` for each row of opcode_table.json. A row is
a host command frame, a frame of another length, a message of a loop or of the rack link, an expiry of a timer, a change of the
panic input, or a step of the resolver, the sweeper or the store. Host parameters stand as the frame's
bytes give them (R183): a byte, or two bytes low byte first, so that a value outside its field's range can be sent. -/
namespace Sys2Proof

/-- The two station loops (R18: loop 0 is A, loop 1 is B). -/
inductive Loop where
  | a
  | b
  deriving DecidableEq, Repr

/-- The direction of a transition of a control (R37). -/
inductive Edge where
  | press
  | release
  deriving DecidableEq, Repr

/-- One transition byte of a KEY_REPORT (2.3): a control 0–15 and its edge. -/
structure Transition where
  control : BitVec 4
  edge : Edge
  deriving DecidableEq, Repr

/-- What a rack found at a slot (R159). -/
inductive FaultKind where
  | lampOpen
  | overload
  deriving DecidableEq, Repr

/-- One fault entry byte of a STATUS reply (8.2): seven bits of slot and the kind. -/
structure FaultEntry where
  slot : BitVec 7
  kind : FaultKind
  deriving DecidableEq, Repr

/-- The commands, in the order of opcode_table.json. -/
inductive Instr where
  /-- START_UP: power-up or the reset pin, with the level the panic input has at that moment (R141, R195). -/
  | startUp (panicInput : Bool)
  /-- POWER_LOSS (R194). -/
  | powerLoss
  /-- BAD_FRAME: a frame of `edges` clock edges, neither 8 nor 96 (R178). -/
  | badFrame (edges : Nat)
  /-- STATUS_ONLY_FRAME: a frame of 8 clock edges (R178). -/
  | statusOnlyFrame
  /-- BAD_COMMAND: a command frame whose byte 0 names no command (R181). -/
  | badCommand (code : Byte)
  | nop
  | identify
  | writeStation (station enrolled : Byte) (base : Half) (count authority : Byte)
  | readStation (station : Byte)
  | loopRestart (loop : Byte)
  /-- WRITE_BINDING: the index, and the nine record bytes 0–8 as one number, byte 0 lowest (R183). -/
  | writeBinding (index : Half) (record : BitVec 72)
  | readBinding (index : Half)
  | clearBinding (index : Half)
  | writeCircuit (circuit : Half) (egress : Byte) (floor : Half) (house panicParticipant curve mergeRule : Byte)
  | readCircuit (circuit : Half)
  | retireCircuit (circuit : Half)
  | restoreCircuit (circuit : Half)
  | listHolds (circuit position : Half)
  | groupAdd (group : Byte) (circuit : Half)
  | groupRemove (group : Byte) (circuit : Half)
  | groupRead (group position : Byte)
  | presetSetEntry (preset : Byte) (circuit level : Half)
  | presetRemoveEntry (preset : Byte) (circuit : Half)
  | presetSetAttr (preset : Byte) (fade : Half) (zone : Byte)
  | presetRead (preset position : Byte)
  | placeHold (channel targetKind : Byte) (number level fade : Half) (priority : Byte)
  | releaseHold (channel targetKind : Byte) (number : Half)
  | recallPreset (preset priority : Byte)
  | releasePreset (preset : Byte)
  | releaseOwner (index : Half)
  | setMode (mode : Byte)
  | setZoneMinimum (mode zone value : Byte)
  | setHoldoverLevel (level : Half)
  | lockTake (period : Byte)
  | lockRenew (toggle : Byte)
  | lockGive
  | panic
  | clearPanic
  | retarget (oldCircuit newCircuit : Half)
  | sweepAbort
  | save
  | readSense
  | readRefusal
  | readEvents
  | eventMask (station press circuit rack mode sweep store : Byte)
  | restart
  /-- POLL: the loop's controller polls its next enrolled address (R23, R25). -/
  | poll (loop : Loop)
  /-- DISCOVERY_POLL: the loop's controller ends its round (R24). -/
  | discoveryPoll (loop : Loop)
  /-- IDLE_REPLY: an IDLE reply carrying `address` (2.3). -/
  | idleReply (loop : Loop) (address : BitVec 6)
  /-- KEY_REPORT: a key report carrying `address`, its sequence bit and its transitions (2.3). -/
  | keyReport (loop : Loop) (address : BitVec 6) (sequence : Bool) (transitions : List Transition)
  /-- STATION_MISS: the loop's reply window closes with no valid reply (R26). -/
  | stationMiss (loop : Loop)
  | pressEdge
  | releaseEdge
  | fadeStep
  | minuteTimer
  | panicInputActive
  | panicInputInactive
  | lockTimerExpiry
  /-- REFRESH_TIMER of one rack (R157). -/
  | refreshTimer (rack : BitVec 2)
  /-- STATUS_REPLY: a reply carrying `rack` and its fault entries (8.2). -/
  | statusReply (rack : BitVec 2) (entries : List FaultEntry)
  /-- RACK_MISS: the rack link's reply window closes with no valid reply (R160). -/
  | rackMiss
  | faultMinuteTimer
  | sweepVisit
  | saveCompletion
  deriving DecidableEq, Repr

end Sys2Proof
end

