-- ==== Sys2Proof/Decode.lean ====
section
/-! DEFINITION. From bits to commands. The rows of opcode_table.json carry no bits, so `decodeTableWord` reads no
command from a table word. What the guide does give in bits is decoded here: host command frames (10.1, R183, 10.7),
replies of the station loops (2.3) and STATUS replies of the racks (8.2). -/
namespace Sys2Proof

/-! ## Numbers in bytes -/

/-- The number whose bytes are given, lowest first. -/
def leNat : List Byte → Nat
  | [] => 0
  | b :: bs => b.toNat + 256 * leNat bs

/-- The `k` low bytes of a number, lowest first. -/
def leBytes : Nat → Nat → List Byte
  | 0, _ => []
  | k + 1, x => BitVec.ofNat 8 x :: leBytes k (x / 256)

/-- The two bytes of a frame's 16-bit number, low byte first (R183). -/
def halfBytes (h : Half) : List Byte := leBytes 2 h.toNat

/-! ## Host frames -/

/-- Byte `k` of a frame. -/
def byteAt (frame : List Byte) (k : Nat) : Byte := frame.getD k 0

/-- The 16-bit number in bytes `k` and `k + 1` of a frame, low byte first (R183). -/
def halfAt (frame : List Byte) (k : Nat) : Half :=
  BitVec.ofNat 16 (leNat [byteAt frame k, byteAt frame (k + 1)])

/-- The nine record bytes of WRITE_BINDING, frame bytes 3–11 (R183). -/
def recordAt (frame : List Byte) : BitVec 72 := BitVec.ofNat 72 (leNat ((frame.drop 3).take 9))

/-- The command code of a host command, from the catalogue of 10.7. -/
def Instr.code : Instr → Option Byte
  | .badCommand c => some c
  | .nop => some 0x00
  | .identify => some 0x01
  | .writeStation .. => some 0x08
  | .readStation .. => some 0x09
  | .loopRestart .. => some 0x0A
  | .writeBinding .. => some 0x10
  | .readBinding .. => some 0x11
  | .clearBinding .. => some 0x12
  | .writeCircuit .. => some 0x18
  | .readCircuit .. => some 0x19
  | .retireCircuit .. => some 0x1A
  | .restoreCircuit .. => some 0x1B
  | .listHolds .. => some 0x1C
  | .groupAdd .. => some 0x20
  | .groupRemove .. => some 0x21
  | .groupRead .. => some 0x22
  | .presetSetEntry .. => some 0x23
  | .presetRemoveEntry .. => some 0x24
  | .presetSetAttr .. => some 0x25
  | .presetRead .. => some 0x26
  | .placeHold .. => some 0x28
  | .releaseHold .. => some 0x29
  | .recallPreset .. => some 0x2A
  | .releasePreset .. => some 0x2B
  | .releaseOwner .. => some 0x2C
  | .setMode .. => some 0x30
  | .setZoneMinimum .. => some 0x31
  | .setHoldoverLevel .. => some 0x32
  | .lockTake .. => some 0x33
  | .lockRenew .. => some 0x34
  | .lockGive => some 0x35
  | .panic => some 0x36
  | .clearPanic => some 0x37
  | .retarget .. => some 0x38
  | .sweepAbort => some 0x39
  | .save => some 0x3A
  | .readSense => some 0x40
  | .readRefusal => some 0x41
  | .readEvents => some 0x42
  | .eventMask .. => some 0x43
  | .restart => some 0x44
  | .startUp .. => none
  | .powerLoss => none
  | .badFrame .. => none
  | .statusOnlyFrame => none
  | .poll .. => none
  | .discoveryPoll .. => none
  | .idleReply .. => none
  | .keyReport .. => none
  | .stationMiss .. => none
  | .pressEdge => none
  | .releaseEdge => none
  | .fadeStep => none
  | .minuteTimer => none
  | .panicInputActive => none
  | .panicInputInactive => none
  | .lockTimerExpiry => none
  | .refreshTimer .. => none
  | .statusReply .. => none
  | .rackMiss => none
  | .faultMinuteTimer => none
  | .sweepVisit => none
  | .saveCompletion => none

/-- The command codes of the catalogue of 10.7. -/
def commandCodes : List Byte :=
  [0x00, 0x01, 0x08, 0x09, 0x0A, 0x10, 0x11, 0x12, 0x18, 0x19, 0x1A, 0x1B, 0x1C, 0x20, 0x21, 0x22, 0x23, 0x24, 0x25,
   0x26, 0x28, 0x29, 0x2A, 0x2B, 0x2C, 0x30, 0x31, 0x32, 0x33, 0x34, 0x35, 0x36, 0x37, 0x38, 0x39, 0x3A, 0x40, 0x41,
   0x42, 0x43, 0x44]

/-- The command of a 12-byte command frame: byte 0 is its code (10.7), its parameters stand in bytes 1–11 in
whole bytes, two-byte numbers low byte first, a target as kind and number (R183). A byte 0 that names no
command is BAD_COMMAND (R181). Parameter bytes beyond the last field are ignored (R183). -/
def decodeCommand (f : List Byte) : Instr :=
  match (byteAt f 0).toNat with
  | 0x00 => .nop
  | 0x01 => .identify
  | 0x08 => .writeStation (byteAt f 1) (byteAt f 2) (halfAt f 3) (byteAt f 5) (byteAt f 6)
  | 0x09 => .readStation (byteAt f 1)
  | 0x0A => .loopRestart (byteAt f 1)
  | 0x10 => .writeBinding (halfAt f 1) (recordAt f)
  | 0x11 => .readBinding (halfAt f 1)
  | 0x12 => .clearBinding (halfAt f 1)
  | 0x18 => .writeCircuit (halfAt f 1) (byteAt f 3) (halfAt f 4) (byteAt f 6) (byteAt f 7) (byteAt f 8) (byteAt f 9)
  | 0x19 => .readCircuit (halfAt f 1)
  | 0x1A => .retireCircuit (halfAt f 1)
  | 0x1B => .restoreCircuit (halfAt f 1)
  | 0x1C => .listHolds (halfAt f 1) (halfAt f 3)
  | 0x20 => .groupAdd (byteAt f 1) (halfAt f 2)
  | 0x21 => .groupRemove (byteAt f 1) (halfAt f 2)
  | 0x22 => .groupRead (byteAt f 1) (byteAt f 2)
  | 0x23 => .presetSetEntry (byteAt f 1) (halfAt f 2) (halfAt f 4)
  | 0x24 => .presetRemoveEntry (byteAt f 1) (halfAt f 2)
  | 0x25 => .presetSetAttr (byteAt f 1) (halfAt f 2) (byteAt f 4)
  | 0x26 => .presetRead (byteAt f 1) (byteAt f 2)
  | 0x28 => .placeHold (byteAt f 1) (byteAt f 2) (halfAt f 3) (halfAt f 5) (halfAt f 7) (byteAt f 9)
  | 0x29 => .releaseHold (byteAt f 1) (byteAt f 2) (halfAt f 3)
  | 0x2A => .recallPreset (byteAt f 1) (byteAt f 2)
  | 0x2B => .releasePreset (byteAt f 1)
  | 0x2C => .releaseOwner (halfAt f 1)
  | 0x30 => .setMode (byteAt f 1)
  | 0x31 => .setZoneMinimum (byteAt f 1) (byteAt f 2) (byteAt f 3)
  | 0x32 => .setHoldoverLevel (halfAt f 1)
  | 0x33 => .lockTake (byteAt f 1)
  | 0x34 => .lockRenew (byteAt f 1)
  | 0x35 => .lockGive
  | 0x36 => .panic
  | 0x37 => .clearPanic
  | 0x38 => .retarget (halfAt f 1) (halfAt f 3)
  | 0x39 => .sweepAbort
  | 0x3A => .save
  | 0x40 => .readSense
  | 0x41 => .readRefusal
  | 0x42 => .readEvents
  | 0x43 => .eventMask (byteAt f 1) (byteAt f 2) (byteAt f 3) (byteAt f 4) (byteAt f 5) (byteAt f 6) (byteAt f 7)
  | 0x44 => .restart
  | _ => .badCommand (byteAt f 0)

/-- The parameter bytes of a host command, in the order in which its rule names them (R183). -/
def Instr.parameters : Instr → List Byte
  | .writeStation s e b c a => [s, e] ++ halfBytes b ++ [c, a]
  | .readStation s => [s]
  | .loopRestart l => [l]
  | .writeBinding i r => halfBytes i ++ leBytes 9 r.toNat
  | .readBinding i => halfBytes i
  | .clearBinding i => halfBytes i
  | .writeCircuit c e f h p v m => halfBytes c ++ [e] ++ halfBytes f ++ [h, p, v, m]
  | .readCircuit c => halfBytes c
  | .retireCircuit c => halfBytes c
  | .restoreCircuit c => halfBytes c
  | .listHolds c n => halfBytes c ++ halfBytes n
  | .groupAdd g c => [g] ++ halfBytes c
  | .groupRemove g c => [g] ++ halfBytes c
  | .groupRead g n => [g, n]
  | .presetSetEntry p c l => [p] ++ halfBytes c ++ halfBytes l
  | .presetRemoveEntry p c => [p] ++ halfBytes c
  | .presetSetAttr p f z => [p] ++ halfBytes f ++ [z]
  | .presetRead p n => [p, n]
  | .placeHold k t n l f p => [k, t] ++ halfBytes n ++ halfBytes l ++ halfBytes f ++ [p]
  | .releaseHold k t n => [k, t] ++ halfBytes n
  | .recallPreset p r => [p, r]
  | .releasePreset p => [p]
  | .releaseOwner i => halfBytes i
  | .setMode m => [m]
  | .setZoneMinimum m z v => [m, z, v]
  | .setHoldoverLevel l => halfBytes l
  | .lockTake p => [p]
  | .lockRenew t => [t]
  | .retarget o n => halfBytes o ++ halfBytes n
  | .eventMask a b c d e f g => [a, b, c, d, e, f, g]
  | .badCommand _ => []
  | .nop => []
  | .identify => []
  | .lockGive => []
  | .panic => []
  | .clearPanic => []
  | .sweepAbort => []
  | .save => []
  | .readSense => []
  | .readRefusal => []
  | .readEvents => []
  | .restart => []
  | .startUp _ => []
  | .powerLoss => []
  | .badFrame _ => []
  | .statusOnlyFrame => []
  | .poll _ => []
  | .discoveryPoll _ => []
  | .idleReply _ _ => []
  | .keyReport _ _ _ _ => []
  | .stationMiss _ => []
  | .pressEdge => []
  | .releaseEdge => []
  | .fadeStep => []
  | .minuteTimer => []
  | .panicInputActive => []
  | .panicInputInactive => []
  | .lockTimerExpiry => []
  | .refreshTimer _ => []
  | .statusReply _ _ => []
  | .rackMiss => []
  | .faultMinuteTimer => []
  | .sweepVisit => []
  | .saveCompletion => []

/-- A byte list filled with zeros to twelve bytes. -/
def padFrame (bytes : List Byte) : List Byte := bytes ++ List.replicate (12 - bytes.length) 0

/-- The 12-byte frame of a host command, its unused parameter bytes 0; none for an event, which no
frame carries. -/
def encodeCommand (i : Instr) : Option (List Byte) :=
  match i.code with
  | some c => some (padFrame (c :: i.parameters))
  | none => none

/-- A frame as select rises: 96 clock edges make a command frame, 8 a status-only frame, any other count a bad
frame (R178). `bytes` are the whole bytes taken from data in. -/
def decodeFrame (edges : Nat) (bytes : List Byte) : Instr :=
  if edges = 96 then decodeCommand bytes
  else if edges = 8 then .statusOnlyFrame
  else .badFrame edges

/-! ## Replies of the station loops (2.3, R26) -/

/-- The sum of the bytes of a message. -/
def byteSum (bytes : List Byte) : Nat := (bytes.map BitVec.toNat).sum

/-- The check byte of a loop message: the sum modulo 256 of the bytes before it, complemented. -/
def loopCheck (bytes : List Byte) : Byte := ~~~ BitVec.ofNat 8 (byteSum bytes)

/-- The transition byte: bits 3–0 control, bit 7 edge (0 PRESS, 1 RELEASE). -/
def transitionByte (t : Transition) : Byte :=
  BitVec.ofNat 8 (t.control.toNat + 128 * (if t.edge = .release then 1 else 0))

def transitionOf (b : Byte) : Transition :=
  ⟨BitVec.ofNat 4 b.toNat, if b.toNat < 128 then .press else .release⟩

/-- The length that a reply's type and transition count give; none where they give no valid length (R26). -/
def replyLength : List Byte → Option Nat
  | [] => none
  | b0 :: rest =>
    if b0.toNat / 64 = 0 then some 2
    else if b0.toNat / 64 = 1 then
      match rest with
      | [] => none
      | b1 :: _ => if 1 ≤ b1.toNat % 8 ∧ b1.toNat % 8 ≤ 4 then some (3 + b1.toNat % 8) else none
    else none

/-- The contents of a reply whose check byte has been found correct; STATION_MISS where a bit the layout shows as
0 is not (R26). -/
def replyContents (loop : Loop) : List Byte → Instr
  | [b0] => .idleReply loop (BitVec.ofNat 6 b0.toNat)
  | b0 :: b1 :: ts =>
    if b1.toNat / 8 % 16 = 0 ∧ ts.all (fun t => t.toNat / 16 % 8 == 0) then
      .keyReport loop (BitVec.ofNat 6 b0.toNat) (decide (128 ≤ b1.toNat)) (ts.map transitionOf)
    else .stationMiss loop
  | [] => .stationMiss loop

/-- The bytes received in a reply that began within the window and whose time has ended (R26), as a command: a valid
reply or a miss. Bytes beyond the reply's length are no part of it. That its address is the address
polled is checked by the command's meaning. -/
def decodeReply (loop : Loop) (bytes : List Byte) : Instr :=
  match replyLength bytes with
  | none => .stationMiss loop
  | some n =>
    if bytes.length < n then .stationMiss loop
    else if bytes.getD (n - 1) 0 = loopCheck (bytes.take (n - 1)) then replyContents loop (bytes.take (n - 1))
    else .stationMiss loop

/-- The bytes of a reply before its check byte (2.3). -/
def replyBody : Instr → List Byte
  | .idleReply _ address => [BitVec.ofNat 8 address.toNat]
  | .keyReport _ address sequence transitions =>
    BitVec.ofNat 8 (address.toNat + 64) ::
      BitVec.ofNat 8 (transitions.length + 128 * (if sequence then 1 else 0)) ::
      transitions.map transitionByte
  | _ => []

/-- A reply as its station sends it (2.3). -/
def encodeReply (i : Instr) : List Byte := replyBody i ++ [loopCheck (replyBody i)]

/-! ## STATUS replies of the rack link (8.2, R160) -/

/-- The two check bytes of a rack link message, high byte first: the sum modulo 65536 of the bytes before them,
complemented. -/
def rackCheck (bytes : List Byte) : List Byte :=
  (leBytes 2 (~~~ BitVec.ofNat 16 (byteSum bytes)).toNat).reverse

def faultByte (e : FaultEntry) : Byte :=
  BitVec.ofNat 8 (e.slot.toNat + 128 * (if e.kind = .overload then 1 else 0))

def faultOf (b : Byte) : FaultEntry :=
  ⟨BitVec.ofNat 7 b.toNat, if b.toNat < 128 then .lampOpen else .overload⟩

/-- The bytes received in a STATUS reply (R160), as a command: a reply or RACK_MISS. That its rack field is the rack the
frame was sent to, and that its slots are 0–95, is checked by the command's meaning. -/
def decodeStatus (bytes : List Byte) : Instr :=
  match bytes with
  | b0 :: b1 :: _ =>
    let n := b1.toNat
    if n ≤ 4 ∧ b0.toNat / 4 % 4 = 0 ∧ b0.toNat / 16 = 10 ∧ 4 + n ≤ bytes.length ∧
        (bytes.drop (2 + n)).take 2 = rackCheck (bytes.take (2 + n)) then
      .statusReply (BitVec.ofNat 2 b0.toNat) (((bytes.drop 2).take n).map faultOf)
    else .rackMiss
  | _ => .rackMiss

/-- The bytes of a STATUS reply before its check bytes (8.2). -/
def statusBody (rack : BitVec 2) (entries : List FaultEntry) : List Byte :=
  BitVec.ofNat 8 (rack.toNat + 160) :: BitVec.ofNat 8 entries.length :: entries.map faultByte

/-- A STATUS reply as its rack sends it (8.2). -/
def encodeStatus (rack : BitVec 2) (entries : List FaultEntry) : List Byte :=
  statusBody rack entries ++ rackCheck (statusBody rack entries)

/-! ## Table words -/

/-- The command a word of opcode_table.json spells: none, since no row of the table carries bits. -/
def decodeTableWord (_nbits _w : Nat) : Option Instr := none

end Sys2Proof
end

