-- ==== Sys2Proof/WellFormed.lean ====
section
/-! DEFINITION. Which terms of `Instr` are commands of the guide: a BAD_FRAME is neither a command frame nor a
status-only frame, a BAD_COMMAND names no command, and a reply is one that a station or a rack can send. -/
namespace Sys2Proof

/-- The message of a valid key report (R26): one to four transitions. -/
def reportFits (transitions : List Transition) : Bool :=
  decide (1 ≤ transitions.length ∧ transitions.length ≤ 4)

/-- The fault entries of a valid STATUS reply (R160): at most four, each naming a slot 0–95. -/
def faultsFit (entries : List FaultEntry) : Bool :=
  decide (entries.length ≤ 4) && entries.all (fun e => decide (e.slot.toNat < Config.slotsPerRack))

/-- The term is a command of its row. Host parameters are bytes, and every value of them can be sent (R183). -/
def Instr.wellFormed : Instr → Bool
  | .badFrame edges => decide (edges ≠ 8 ∧ edges ≠ 96)
  | .badCommand code => !commandCodes.contains code
  | .idleReply _ address => decide (address ≠ 0)
  | .keyReport _ address _ transitions => decide (address ≠ 0) && reportFits transitions
  | .statusReply _ entries => faultsFit entries
  | _ => true

end Sys2Proof
end

