-- ==== Sys2Proof/Machine/State.lean ====
section
/-! DEFINITION. The state of the SB-384: the configuration that SAVE captures, the live records of every block, the
command port's records, and the queue of waiting commands. Circuit, station, binding, group and preset numbers,
levels and counts are plain numbers; what range each keeps is an invariant (Safety.lean). -/
namespace Sys2Proof.Machine

/-! ## Configuration records -/

/-- What a press of a control does (R2), in the order of R1's table. -/
inductive BindingKind where
  | latchOn | latchOff | toggle | holdToRun | raise | lower | stationClear | panic
  deriving DecidableEq, Repr

/-- What a binding acts on (R2). -/
inductive Target where
  | absent
  | circuit (c : Nat)
  | group (g : Nat)
  | preset (p : Nat)
  deriving DecidableEq, Repr

/-- How a control's indicator is computed (R6). -/
inductive IndicatorRule where
  | followHold | followLevel | dark
  deriving DecidableEq, Repr

/-- A binding record (R1). -/
structure Binding where
  present : Bool
  kind : BindingKind
  target : Target
  level : Nat
  fade : Nat
  priority : Nat
  authority : Nat
  zone : Nat
  owner : Option Nat
  expiry : Option Nat
  indicator : IndicatorRule
  deriving DecidableEq, Repr

/-- The empty binding record: present no, every other field at the last column of R1's table. -/
def Binding.empty : Binding :=
  { present := false, kind := .latchOn, target := .absent, level := 0, fade := 0, priority := 1, authority := 0,
    zone := 0, owner := none, expiry := none, indicator := .followHold }

/-- The configuration half of a station slot (R18). -/
structure StationConfig where
  enrolled : Bool
  base : Nat
  count : Nat
  authority : Nat
  deriving DecidableEq, Repr

/-- The default slot (R18, 11.4). -/
def StationConfig.default : StationConfig := { enrolled := false, base := 0, count := 1, authority := 0 }

/-- The curve from output level to rack code (R114). -/
inductive Curve where
  | linear | square | switched
  deriving DecidableEq, Repr

/-- The merge rule among holds of equal priority (R107, R108). -/
inductive MergeRule where
  | htp | ltp
  deriving DecidableEq, Repr

/-- The seven stored attributes of a circuit (R95). -/
structure CircuitAttrs where
  egress : Bool
  floor : Nat
  house : Bool
  panicParticipant : Bool
  curve : Curve
  mergeRule : MergeRule
  retired : Bool
  deriving DecidableEq, Repr

/-- The default circuit (R95, 11.4). -/
def CircuitAttrs.default : CircuitAttrs :=
  { egress := false, floor := 0, house := false, panicParticipant := true, curve := .linear, mergeRule := .htp,
    retired := false }

/-- A preset: entries in list order, each a circuit with its level, a fade and a zone (R122). -/
structure Preset where
  entries : List (Nat × Nat)
  fade : Nat
  zone : Nat
  deriving DecidableEq, Repr

/-- The default preset (R122, 11.4). -/
def Preset.empty : Preset := { entries := [], fade := 0, zone := 0 }

/-- The house modes, in the order of the status byte (R133, 10.2). -/
inductive Mode where
  | work | openHouse | show | interval | holdover | panic
  deriving DecidableEq, Repr

/-- An entry of the zone minimum table (R134). -/
inductive ZoneMinimum where
  | atLeast (authority : Fin 4)
  | closed
  deriving DecidableEq, Repr

/-- The seven saved items of 11.1: all that SAVE captures and a start-up loads. Entry `5 z + m` of
`zoneMinimums` is that of zone z in the mode numbered m, WORK 0 to HOLDOVER 4. -/
structure Configuration where
  stations : Table StationConfig 128
  bindings : Table Binding 1024
  groups : Table (List Nat) 64
  presets : Table Preset 48
  circuits : Table CircuitAttrs 384
  zoneMinimums : Table ZoneMinimum 80
  holdoverLevel : Nat
  deriving DecidableEq, Repr

/-- The default configuration (11.4). -/
def Configuration.default : Configuration :=
  { stations := Table.fill 128 StationConfig.default, bindings := Table.fill 1024 Binding.empty, groups := Table.fill 64 [],
    presets := Table.fill 48 Preset.empty, circuits := Table.fill 384 CircuitAttrs.default,
    zoneMinimums := Table.fill 80 (.atLeast 0), holdoverLevel := 400 }

/-! ## Station loops -/

/-- Whether a station answers its polls (R19), in the order of R183. -/
inductive Presence where
  | unknown | online | silent | heard
  deriving DecidableEq, Repr

/-- The answer to a station's last report, carried in its next poll (R19). -/
inductive Answer where
  | none
  | ack (sequence : Bool)
  | wait
  deriving DecidableEq, Repr

/-- The state of one indicator (R19). -/
inductive Indicator where
  | off | on | slowFlash | fastFlash
  deriving DecidableEq, Repr

/-- The live half of a station slot (R19). `expected` is none while UNLEARNED. `forced` says that image pending
stands until a poll carrying an image is answered (R35). Bit n of `deny` is control n. -/
structure StationLive where
  presence : Presence
  missCount : Nat
  expected : Option Bool
  lastImage : List Indicator
  imagePending : Bool
  forced : Bool
  deny : BitVec 16
  answer : Answer
  deriving DecidableEq, Repr

/-- The image with every control OFF. -/
def darkImage : List Indicator := List.replicate 16 .off

/-- The live half at start-up, RESTART and LOOP_RESTART (R19): image pending, and forced, for an enrolled station. -/
def StationLive.fresh (enrolled : Bool) : StationLive :=
  { presence := .unknown, missCount := 0, expected := none, lastImage := darkImage, imagePending := enrolled,
    forced := enrolled, deny := 0, answer := .none }

/-- A POLL in flight: the address and what it carries (R25). -/
structure PollSent where
  address : Nat
  answer : Answer
  image : Option (List Indicator)
  deny : BitVec 16
  deriving DecidableEq, Repr

/-- One loop's controller: the discovery cursor (R24), the address last polled in this round with 0 for
a new round (R23), and the poll in flight. -/
structure LoopState where
  cursor : Nat
  position : Nat
  inFlight : Option PollSent
  deriving DecidableEq, Repr

/-- The controller at start-up, RESTART and LOOP_RESTART (R24, R39). -/
def LoopState.fresh : LoopState := { cursor := 63, position := 0, inFlight := none }

/-- A press entry (R37). -/
structure PressEntry where
  station : Nat
  control : Nat
  edge : Edge
  loop : Loop
  deriving DecidableEq, Repr

/-! ## Holds -/

/-- In whose name a hold is kept (R68), in the order of R183. -/
inductive Originator where
  | binding (b : Nat)
  | preset (p : Nat)
  | console (k : Nat)
  deriving DecidableEq, Repr

/-- Whether a HOLD_TO_RUN release reaches the hold (R68). -/
inductive HoldKind where
  | latch | momentary
  deriving DecidableEq, Repr

/-- What a hold is doing (R69). -/
inductive HoldState where
  | fading | steady | ramping | fadingOut
  deriving DecidableEq, Repr

/-- The direction of a ramp (R68). -/
inductive RampDirection where
  | up | down
  deriving DecidableEq, Repr

/-- The ramp fields of a hold, present while RAMPING (R68, R69). -/
structure Ramp where
  direction : RampDirection
  start : Nat
  travel : Nat
  elapsed : Nat
  deriving DecidableEq, Repr

/-- A hold record (R68). -/
structure Hold where
  slot : Nat
  circuit : Nat
  originator : Originator
  zone : Option Nat
  kind : HoldKind
  priority : Nat
  lastStation : Option Nat
  level : Nat
  start : Nat
  target : Nat
  placedFade : Nat
  length : Nat
  elapsed : Nat
  ramp : Option Ramp
  state : HoldState
  parked : Bool
  expiry : Option Nat
  deriving DecidableEq, Repr

/-! ## Circuits, racks, modes, sweep, store -/

/-- The live state of a circuit record (R99): its MOVING mark, fault count and reported-this-minute mark. -/
structure CircuitLive where
  moving : Option Nat
  faultCount : Nat
  reported : Bool
  deriving DecidableEq, Repr

/-- The live state at start-up (R99). -/
def CircuitLive.clear : CircuitLive := { moving := none, faultCount := 0, reported := false }

/-- Whether a rack answers (R161). -/
inductive RackState where
  | unknown | online | lost
  deriving DecidableEq, Repr

/-- One rack: its state, miss count and last-sent codes, slot 0 first (R158, R161). -/
structure Rack where
  state : RackState
  missCount : Nat
  lastSent : Table Nat 96
  deriving DecidableEq, Repr

/-- A rack at start-up and RESTART (R158, R161). -/
def Rack.fresh : Rack := { state := .unknown, missCount := 0, lastSent := Table.fill 96 0 }

/-- The fields of the show lock while it is held (R147). `since` is the period start, as a moment of the clock. -/
structure LockHeld where
  period : Nat
  lastToggle : Bool
  since : Nat
  deriving DecidableEq, Repr

/-- The show lock: FREE, FIRST or WINDOWED (R147). -/
inductive ShowLock where
  | free
  | first (h : LockHeld)
  | windowed (h : LockHeld)
  deriving DecidableEq, Repr

/-- The three tables of a sweep, in order (R169, R172). -/
inductive SweepTable where
  | bindings | groups | presets
  deriving DecidableEq, Repr

/-- The next record a sweep visits (R169). -/
structure SweepPosition where
  table : SweepTable
  index : Nat
  deriving DecidableEq, Repr

/-- The circuits and the position of a sweep (R169). -/
structure SweepJob where
  oldCircuit : Nat
  newCircuit : Nat
  position : SweepPosition
  deriving DecidableEq, Repr

/-- The sweeper's state with its continuation (R169). -/
inductive SweepState where
  | idle
  | sweeping (job : SweepJob)
  | aborted (job : SweepJob)
  deriving DecidableEq, Repr

/-- The retarget sweeper (R169). -/
structure Sweeper where
  state : SweepState
  changed : Nat
  deriving DecidableEq, Repr

/-- The configuration store (R192): its state, with the image of a VALID store, or the snapshot being written and the moment its
write began. -/
inductive Store where
  | valid (image : Configuration)
  | invalid
  | writing (snapshot : Configuration) (since : Nat)
  deriving DecidableEq, Repr

/-- The moments at which the free-running timers are next due (00_scope.md, Time): the hold unit's fade-step and minute
timers, the refresh timer of each rack, the fault minute timer. -/
structure Timers where
  fadeStep : Nat
  minute : Nat
  refresh : Table Nat 4
  faultMinute : Nat
  deriving DecidableEq, Repr

/-- The timers started, or restarted, at a moment: rack r first due r × 6.25 ms after it (R75, R83, R157, R166). -/
def Timers.started (now : Nat) : Timers :=
  { fadeStep := now + Config.fadeTicks, minute := now + Config.minuteTicks,
    refresh := Table.tabulate 4 (fun r => now + Config.refreshOffset * r), faultMinute := now + Config.minuteTicks }

/-! ## Command port -/

/-- The result codes (R182), in the order of their numbers. -/
inductive ResultCode where
  | ok | badCommand | badParameter | sweepActive | storeBusy | modeConflict | lockState | poolFull | presetBusy
  | circuitRetired | egressProtected | collectionFull | duplicate | notFound | noTarget
  deriving DecidableEq, Repr

/-- The result buffer (R182): a code and ten data bytes, data byte 1 lowest. -/
structure Result where
  code : ResultCode
  data : BitVec 80
  deriving DecidableEq, Repr

/-- A sense reference (R184): its kind with its value. -/
inductive SenseRef where
  | none
  | station (n : Nat)
  | binding (n : Nat)
  | circuit (n : Nat)
  | group (n : Nat)
  | preset (n : Nat)
  | sweepPosition (p : SweepPosition)
  deriving DecidableEq, Repr

/-- The sense record (R184). -/
structure SenseRecord where
  valid : Bool
  command : Byte
  result : ResultCode
  ref : SenseRef
  refValid : Bool
  earlierUnread : Bool
  deriving DecidableEq, Repr

/-- The cleared sense record (R184): every other field 0. -/
def SenseRecord.cleared : SenseRecord :=
  { valid := false, command := 0, result := .ok, ref := .none, refValid := false, earlierUnread := false }

/-- The press refusal codes, in the order of R52's table, by which they are numbered (R183). -/
inductive PressRefusal where
  | stationUnenrolled | controlBeyondCount | bindingBeyondTable | bindingAbsent | authorityLow | zoneLocked
  | stationSilent | circuitRetired | noTarget | presetBusy | poolFull
  deriving DecidableEq, Repr

/-- The refusal record (R53). -/
structure RefusalRecord where
  valid : Bool
  station : Nat
  control : Nat
  binding : Option Nat
  code : PressRefusal
  earlierUnread : Bool
  deriving DecidableEq, Repr

/-- The cleared refusal record (R53); its code field 0 is the code numbered 0. -/
def RefusalRecord.cleared : RefusalRecord :=
  { valid := false, station := 0, control := 0, binding := none, code := .stationUnenrolled, earlierUnread := false }

/-- One yes/no for each event group, in the order of R188: the latched flags, or the mask. -/
structure EventGroups where
  station : Bool
  press : Bool
  circuit : Bool
  rack : Bool
  mode : Bool
  sweep : Bool
  store : Bool
  deriving DecidableEq, Repr

/-- Every group yes, or every group no. -/
def EventGroups.all (b : Bool) : EventGroups :=
  { station := b, press := b, circuit := b, rack := b, mode := b, sweep := b, store := b }

/-- The causes a MODE event reports (R136), in the order in which R136 lists them. -/
inductive ModeCause where
  | setMode | clearPanic | panicInput | panicCommand | panicBinding | early | late | restart
  deriving DecidableEq, Repr

/-- The outcome of a SWEEP event (10.5). -/
inductive SweepOutcome where
  | done | aborted
  deriving DecidableEq, Repr

/-- The outcome of a STORE event (10.5). -/
inductive StoreOutcome where
  | loaded | invalid | saved
  deriving DecidableEq, Repr

/-- The latest detail of each event group (10.5). -/
structure EventDetails where
  station : Nat
  press : PressRefusal
  circuit : Nat
  rack : Nat
  rackState : RackState
  mode : Mode
  cause : ModeCause
  sweepOutcome : SweepOutcome
  sweepOld : Nat
  sweepNew : Nat
  sweepChanged : Nat
  storeOutcome : StoreOutcome
  deriving DecidableEq, Repr

/-- Every detail 0 (R187): each enumeration at the value numbered 0. -/
def EventDetails.zero : EventDetails :=
  { station := 0, press := .stationUnenrolled, circuit := 0, rack := 0, rackState := .unknown, mode := .work,
    cause := .setMode, sweepOutcome := .done, sweepOld := 0, sweepNew := 0, sweepChanged := 0, storeOutcome := .loaded }

/-- The event latch (R187). -/
structure Events where
  flags : EventGroups
  details : EventDetails
  deriving DecidableEq, Repr

/-- Every flag clear and every detail 0 (R187). -/
def Events.cleared : Events := { flags := EventGroups.all false, details := EventDetails.zero }

/-- The SPI port (R178 to R182): the FRAME_BAD flag, the result buffer, and what the last frame shifted out: its whole
bytes, and the first bits of a byte it left unfinished. -/
structure Port where
  frameBad : Bool
  result : Result
  shiftedBytes : List Byte
  shiftedBits : List Bool
  deriving DecidableEq, Repr

/-! ## The whole machine -/

/-- The SB-384. -/
structure State where
  /-- Whether the part has power (R194). -/
  powered : Bool
  /-- Ticks of 1.25 ms since start-up; the model's own (log 3). -/
  clock : Nat
  timers : Timers
  config : Configuration
  store : Store
  /-- The live halves of the station slots. -/
  stations : Table StationLive 128
  loopA : LoopState
  loopB : LoopState
  /-- The press queue, head first (R37). -/
  queue : List PressEntry
  /-- The resolver's current entry (R41). -/
  current : Option PressEntry
  /-- The hold pool in order of last touch, least recently touched first: a circuit's contribution list is the
  holds of that circuit in this order (R68, R70). -/
  holds : List Hold
  circuits : Table CircuitLive 384
  mode : Mode
  lock : ShowLock
  /-- The panic input latch: active or not (R141). -/
  panicLatch : Bool
  racks : Table Rack 4
  /-- The rack whose transaction is in flight on the rack link (R157). -/
  rackInFlight : Option Nat
  sweeper : Sweeper
  port : Port
  sense : SenseRecord
  refusal : RefusalRecord
  events : Events
  mask : EventGroups
  /-- The commands that wait, first in first out. -/
  pending : List Instr
  deriving DecidableEq, Repr

/-- Why a step stops with a fault. The guide names no behaviour that stops the part, so there is no reason. -/
inductive Fault where
  deriving DecidableEq, Repr

/-- Why a step refuses a command. -/
inductive Refusal where
  /-- Raised by `exec` for a command with no meaning in the model. Safe. -/
  | notModelled (mnemonic : String)
  /-- Raised by the meanings of BAD_FRAME and BAD_COMMAND for a term that is no command of its row: a bad
  frame of 8 or 96 clock edges, a bad command whose code the catalogue names. No frame decodes to it. Safe. -/
  | illFormed
  deriving DecidableEq, Repr

/-- The state right after the first start-up: a part whose store has never completed a SAVE, hence INVALID (R192), so the
default configuration in PANIC (R195, R196), with the panic input inactive (log 2). -/
def State.reset : State :=
  { powered := true
    clock := 0
    timers := Timers.started 0
    config := Configuration.default
    store := .invalid
    stations := Table.fill 128 (StationLive.fresh false)
    loopA := LoopState.fresh
    loopB := LoopState.fresh
    queue := []
    current := none
    holds := []
    circuits := Table.fill 384 CircuitLive.clear
    mode := .panic
    lock := .free
    panicLatch := false
    racks := Table.fill 4 Rack.fresh
    rackInFlight := none
    sweeper := { state := .idle, changed := 0 }
    port := { frameBad := false, result := { code := .ok, data := 0 }, shiftedBytes := [], shiftedBits := [] }
    sense := SenseRecord.cleared
    refusal := RefusalRecord.cleared
    events := { flags := { EventGroups.all false with store := true },
                details := { EventDetails.zero with storeOutcome := .invalid } }
    mask := EventGroups.all true
    pending := [] }

end Sys2Proof.Machine
end

