-- ==== Sys2Proof/Machine/Ops.lean ====
section
/-! DEFINITION. The named operations over the state: reading and writing the records of the tables, packing of result
data (R183), and the shape every host command has: a frame is shifted, the command acts, its result enters the buffer. -/
namespace Sys2Proof.Machine

/-! ## Records of the tables -/

/-- Loop 0 is A, loop 1 is B (R18). -/
def loopNumber : Loop → Nat
  | .a => 0
  | .b => 1

/-- Station number S lies on loop S div 64 and has address S mod 64 there (R18). -/
def stationNumber (loop : Loop) (address : Nat) : Nat := 64 * loopNumber loop + address

/-- The loop of a station number. -/
def loopOf (station : Nat) : Loop := if station / 64 = 0 then .a else .b

namespace State

variable (s : State)

/-- The configuration half of a station slot. -/
def slot (n : Nat) : StationConfig := s.config.stations.get StationConfig.default n

/-- The live half of a station slot. -/
def live (n : Nat) : StationLive := s.stations.get (StationLive.fresh false) n

def setLive (n : Nat) (v : StationLive) : State := { s with stations := s.stations.set n v }

/-- The binding record at an index. -/
def binding (i : Nat) : Binding := s.config.bindings.get Binding.empty i

/-- The members of a group, in list order. -/
def group (g : Nat) : List Nat := s.config.groups.get [] g

def preset (p : Nat) : Preset := s.config.presets.get Preset.empty p

/-- The stored attributes of a circuit. -/
def attrs (c : Nat) : CircuitAttrs := s.config.circuits.get CircuitAttrs.default c

/-- The live state of a circuit record. -/
def circuit (c : Nat) : CircuitLive := s.circuits.get CircuitLive.clear c

def setCircuit (c : Nat) (v : CircuitLive) : State := { s with circuits := s.circuits.set c v }

def rack (r : Nat) : Rack := s.racks.get Rack.fresh r

def setRack (r : Nat) (v : Rack) : State := { s with racks := s.racks.set r v }

def loopState : Loop → LoopState
  | .a => s.loopA
  | .b => s.loopB

def setLoop (loop : Loop) (v : LoopState) : State :=
  match loop with
  | .a => { s with loopA := v }
  | .b => { s with loopB := v }

def setBinding (i : Nat) (b : Binding) : State :=
  { s with config := { s.config with bindings := s.config.bindings.set i b } }

def setSlot (n : Nat) (c : StationConfig) : State :=
  { s with config := { s.config with stations := s.config.stations.set n c } }

def setGroup (g : Nat) (l : List Nat) : State :=
  { s with config := { s.config with groups := s.config.groups.set g l } }

def setPreset (p : Nat) (v : Preset) : State :=
  { s with config := { s.config with presets := s.config.presets.set p v } }

def setAttrs (c : Nat) (a : CircuitAttrs) : State :=
  { s with config := { s.config with circuits := s.config.circuits.set c a } }

def setHolds (l : List Hold) : State := { s with holds := l }

end State

/-! ## Numbers of enumerations (R183: from 0, in the order in which the defining rule lists them) -/

def Mode.code : Mode → Nat
  | .work => 0 | .openHouse => 1 | .show => 2 | .interval => 3 | .holdover => 4 | .panic => 5

def modeOf : Nat → Option Mode
  | 0 => some .work | 1 => some .openHouse | 2 => some .show | 3 => some .interval | 4 => some .holdover | 5 => some .panic
  | _ => none

def ZoneMinimum.code : ZoneMinimum → Nat
  | .atLeast a => a.val
  | .closed => 4

def zoneMinimumOf : Nat → Option ZoneMinimum
  | 0 => some (.atLeast 0) | 1 => some (.atLeast 1) | 2 => some (.atLeast 2) | 3 => some (.atLeast 3)
  | 4 => some .closed
  | _ => none

def BindingKind.code : BindingKind → Nat
  | .latchOn => 0 | .latchOff => 1 | .toggle => 2 | .holdToRun => 3 | .raise => 4 | .lower => 5 | .stationClear => 6
  | .panic => 7

def bindingKindOf : Nat → BindingKind
  | 0 => .latchOn | 1 => .latchOff | 2 => .toggle | 3 => .holdToRun | 4 => .raise | 5 => .lower | 6 => .stationClear
  | _ => .panic

def IndicatorRule.code : IndicatorRule → Nat
  | .followHold => 0 | .followLevel => 1 | .dark => 2

def indicatorRuleOf : Nat → Option IndicatorRule
  | 0 => some .followHold | 1 => some .followLevel | 2 => some .dark
  | _ => none

def Target.kindCode : Target → Nat
  | .absent => 0 | .circuit _ => 1 | .group _ => 2 | .preset _ => 3

def Target.number : Target → Nat
  | .absent => 0 | .circuit c => c | .group g => g | .preset p => p

def Curve.code : Curve → Nat
  | .linear => 0 | .square => 1 | .switched => 2

def curveOf : Nat → Option Curve
  | 0 => some .linear | 1 => some .square | 2 => some .switched
  | _ => none

def MergeRule.code : MergeRule → Nat
  | .htp => 0 | .ltp => 1

def mergeRuleOf : Nat → Option MergeRule
  | 0 => some .htp | 1 => some .ltp
  | _ => none

def Presence.code : Presence → Nat
  | .unknown => 0 | .online => 1 | .silent => 2 | .heard => 3

/-- 0, 1, and 2 for UNLEARNED (R183). -/
def expectedCode : Option Bool → Nat
  | some false => 0
  | some true => 1
  | none => 2

/-- Two bits of answer, then the sequence bit, 0 unless ACK (R183). -/
def Answer.code : Answer → Nat
  | .none => 0
  | .ack q => 1 + 4 * q.toNat
  | .wait => 2

def Indicator.code : Indicator → Nat
  | .off => 0 | .on => 1 | .slowFlash => 2 | .fastFlash => 3

/-- Two bits of kind, then ten bits of number (R183). -/
def Originator.code : Originator → Nat
  | .binding b => 4 * (b % 1024)
  | .preset p => 1 + 4 * (p % 1024)
  | .console k => 2 + 4 * (k % 1024)

def HoldKind.code : HoldKind → Nat
  | .latch => 0 | .momentary => 1

def HoldState.code : HoldState → Nat
  | .fading => 0 | .steady => 1 | .ramping => 2 | .fadingOut => 3

def RackState.code : RackState → Nat
  | .unknown => 0 | .online => 1 | .lost => 2

def ShowLock.code : ShowLock → Nat
  | .free => 0 | .first _ => 1 | .windowed _ => 2

def SweepTable.code : SweepTable → Nat
  | .bindings => 0 | .groups => 1 | .presets => 2

/-- Two bits of table, then ten bits of index (R183). -/
def SweepPosition.code (p : SweepPosition) : Nat := p.table.code + 4 * (p.index % 1024)

/-- The store states in the order of R192. -/
def Store.code : Store → Nat
  | .valid _ => 0 | .invalid => 1 | .writing _ _ => 2

/-- The numbers of R182's table. -/
def ResultCode.code : ResultCode → Nat
  | .ok => 0 | .badCommand => 1 | .badParameter => 2 | .sweepActive => 3 | .storeBusy => 4 | .modeConflict => 5
  | .lockState => 6 | .poolFull => 7 | .presetBusy => 8 | .circuitRetired => 9 | .egressProtected => 10
  | .collectionFull => 11 | .duplicate => 12 | .notFound => 13 | .noTarget => 14

def PressRefusal.code : PressRefusal → Nat
  | .stationUnenrolled => 0 | .controlBeyondCount => 1 | .bindingBeyondTable => 2 | .bindingAbsent => 3
  | .authorityLow => 4 | .zoneLocked => 5 | .stationSilent => 6 | .circuitRetired => 7 | .noTarget => 8
  | .presetBusy => 9 | .poolFull => 10

def ModeCause.code : ModeCause → Nat
  | .setMode => 0 | .clearPanic => 1 | .panicInput => 2 | .panicCommand => 3 | .panicBinding => 4 | .early => 5
  | .late => 6 | .restart => 7

def SweepOutcome.code : SweepOutcome → Nat
  | .done => 0 | .aborted => 1

def StoreOutcome.code : StoreOutcome → Nat
  | .loaded => 0 | .invalid => 1 | .saved => 2

/-- The kinds in the order of R184. -/
def SenseRef.kindCode : SenseRef → Nat
  | .none => 0 | .station _ => 1 | .binding _ => 2 | .circuit _ => 3 | .group _ => 4 | .preset _ => 5
  | .sweepPosition _ => 6

/-- The number of a reference in its low ten bits (R183); FREE VALUE for a number ten bits do not hold (log 4). -/
def referenceNumber (n : Nat) : Nat := if n < 1024 then n else (Config.wideReference n).toNat

/-- The twelve bits of the reference value (R183). -/
def SenseRef.value : SenseRef → Nat
  | .none => 0
  | .station n => referenceNumber n
  | .binding n => referenceNumber n
  | .circuit n => referenceNumber n
  | .group n => referenceNumber n
  | .preset n => referenceNumber n
  | .sweepPosition p => p.code

/-! ## Packing (R183) -/

/-- Fields, each a width in bits and a value, one after another from bit 0 upward with no gaps. -/
def packNat : List (Nat × Nat) → Nat
  | [] => 0
  | (w, v) :: rest => v % 2 ^ w + 2 ^ w * packNat rest

/-- The values of fields of the given widths, from bit 0 upward. -/
def unpackNat : List Nat → Nat → List Nat
  | [], _ => []
  | w :: rest, x => x % 2 ^ w :: unpackNat rest (x / 2 ^ w)

/-- Ten result data bytes: the fields from bit 0 of data byte 1, the bits beyond them 0. -/
def packData (fields : List (Nat × Nat)) : BitVec 80 := BitVec.ofNat 80 (packNat fields)

/-- A yes/no field. -/
def yesNo (b : Bool) : Nat × Nat := (1, b.toNat)

/-- An optional field: a present bit, then its value, 0 when absent. -/
def optional (w : Nat) : Option Nat → Nat × Nat
  | some v => (1 + w, 1 + 2 * (v % 2 ^ w))
  | none => (1 + w, 0)

/-- A yes/no parameter byte is read as yes when it is not 0 (R183). -/
def readYes (b : Byte) : Bool := b != 0

/-! ## Frames (10.1, 10.2) -/

/-- ATN is asserted while a group whose enable is yes has its flag set (R188). -/
def attention (flags mask : EventGroups) : Bool :=
  (flags.station && mask.station) || (flags.press && mask.press) || (flags.circuit && mask.circuit) ||
    (flags.rack && mask.rack) || (flags.mode && mask.mode) || (flags.sweep && mask.sweep) ||
    (flags.store && mask.store)

/-- The ATN output; a part without power does not pull it low. -/
def State.atn (s : State) : Bool := s.powered && attention s.events.flags s.mask

def Sweeper.active (w : Sweeper) : Bool :=
  match w.state with
  | .sweeping _ => true
  | _ => false

def Store.busy : Store → Bool
  | .writing _ _ => true
  | _ => false

def ShowLock.isHeld : ShowLock → Bool
  | .free => false
  | _ => true

/-- The status byte as state stands at the fall of select (R180). -/
def State.statusByte (s : State) : Byte :=
  BitVec.ofNat 8 (packNat [(3, s.mode.code), yesNo s.lock.isHeld, yesNo s.store.busy, yesNo s.sweeper.active,
    yesNo s.port.frameBad, yesNo (attention s.events.flags s.mask)])

/-- What the part shifts out in byte `k` of a frame (10.1, R178): the status byte, the result code, the ten data
bytes, then 00h. -/
def State.frameByte (s : State) (k : Nat) : Byte :=
  if k = 0 then s.statusByte
  else if k = 1 then BitVec.ofNat 8 s.port.result.code.code
  else if k ≤ 11 then BitVec.ofNat 8 (s.port.result.data.toNat / 2 ^ (8 * (k - 2)))
  else 0

/-- The first `n` bits of a byte, most significant first (10.1). -/
def leadingBits (n : Nat) (b : Byte) : List Bool := (List.range n).map (fun j => b.getLsbD (7 - j))

/-- A frame of `edges` clock edges: the part shifts out the status byte, sampled at the fall of select, and the result buffer,
and FRAME_BAD is cleared once sampled (R178 to R180). -/
def State.shiftFrame (s : State) (edges : Nat) : State :=
  { s with port := { s.port with
      frameBad := false
      shiftedBytes := (List.range (edges / 8)).map s.frameByte
      shiftedBits := leadingBits (edges % 8) (s.frameByte (edges / 8)) } }

/-! ## Reporting records -/

/-- Whether a reference is valid: every kind but NONE (R184). -/
def SenseRef.isValid : SenseRef → Bool
  | .none => false
  | _ => true

/-- A report written into the sense record (R184); earlier unread says that the report replaced was not read. -/
def State.writeSense (s : State) (command : Byte) (result : ResultCode) (ref : SenseRef) : State :=
  { s with sense := { valid := true, command := command, result := result, ref := ref, refValid := ref.isValid,
                      earlierUnread := s.sense.valid } }

/-- What a command leaves: the state, and its result. -/
structure Reply where
  state : State
  result : Result

/-- A command accepted, with its result data. -/
def Reply.ok (s : State) (fields : List (Nat × Nat)) : Reply := ⟨s, ⟨.ok, packData fields⟩⟩

/-- A command refused: the sense record is written, and the data are those the refusal returns (R182, R184). -/
def Reply.refuse (s : State) (command : Byte) (result : ResultCode) (ref : SenseRef) (fields : List (Nat × Nat) := []) :
    Reply := ⟨s.writeSense command result ref, ⟨result, packData fields⟩⟩

/-- The result replaces the result buffer (R182). -/
def Reply.delivered (r : Reply) : State := { r.state with port := { r.state.port with result := r.result } }

/-- A part without power takes nothing (R194). -/
def whenPowered (s s' : State) : Host.Outcome State Fault Refusal := if s.powered then .next s' else .next s

/-- A host command: its frame is shifted, the command is taken whole as select rises, and its result enters the
buffer (R181, R182). -/
def hostCommand (s : State) (act : State → Reply) : Host.Outcome State Fault Refusal :=
  whenPowered s (act (s.shiftFrame 96)).delivered

end Sys2Proof.Machine
end

