-- ==== Sys2Proof/Machine/Flags.lean ====
section
/-! DEFINITION. The event latch (R187): setting a group's flag and replacing its latest detail. -/
namespace Sys2Proof.Machine.State

variable (s : State)

/-- STATION, with the station number. -/
def latchStation (n : Nat) : State :=
  { s with events := { flags := { s.events.flags with station := true },
                       details := { s.events.details with station := n } } }

/-- PRESS, with the refusal code. -/
def latchPress (code : PressRefusal) : State :=
  { s with events := { flags := { s.events.flags with press := true },
                       details := { s.events.details with press := code } } }

/-- CIRCUIT, with the circuit number. -/
def latchCircuit (c : Nat) : State :=
  { s with events := { flags := { s.events.flags with circuit := true },
                       details := { s.events.details with circuit := c } } }

/-- RACK, with the rack number and its new state. -/
def latchRack (r : Nat) (new : RackState) : State :=
  { s with events := { flags := { s.events.flags with rack := true },
                       details := { s.events.details with rack := r, rackState := new } } }

/-- MODE, with the mode and the cause. -/
def latchMode (mode : Mode) (cause : ModeCause) : State :=
  { s with events := { flags := { s.events.flags with mode := true },
                       details := { s.events.details with mode := mode, cause := cause } } }

/-- SWEEP, with its outcome, circuits and changed-record count. -/
def latchSweep (outcome : SweepOutcome) (job : SweepJob) (changed : Nat) : State :=
  { s with events := { flags := { s.events.flags with sweep := true },
                       details := { s.events.details with sweepOutcome := outcome, sweepOld := job.oldCircuit,
                                                          sweepNew := job.newCircuit, sweepChanged := changed } } }

/-- STORE, with its outcome. -/
def latchStore (outcome : StoreOutcome) : State :=
  { s with events := { flags := { s.events.flags with store := true },
                       details := { s.events.details with storeOutcome := outcome } } }

end Sys2Proof.Machine.State

namespace Sys2Proof.Machine

/-- The seven flags in the order of EVENT_MASK (R188). -/
def EventGroups.fields (g : EventGroups) : List (Nat × Nat) :=
  [yesNo g.station, yesNo g.press, yesNo g.circuit, yesNo g.rack, yesNo g.mode, yesNo g.sweep, yesNo g.store]

/-- Every group's detail in the order of EVENT_MASK (R189). -/
def EventDetails.fields (d : EventDetails) : List (Nat × Nat) :=
  [(7, d.station), (4, d.press.code), (9, d.circuit), (2, d.rack), (2, d.rackState.code), (3, d.mode.code),
   (3, d.cause.code), (1, d.sweepOutcome.code), (9, d.sweepOld), (9, d.sweepNew), (11, d.sweepChanged),
   (2, d.storeOutcome.code)]

end Sys2Proof.Machine
end

