-- ==== Sys2Proof/Machine/Operands.lean ====
section
/-! DEFINITION. The operand forms: the packed binding record (R183) with the checks of R11, the originator of a binding (R7, R8), and
target circuits with the MOVING mapping (R48). -/
namespace Sys2Proof.Machine

/-! ## The packed binding record (R183, R11) -/

/-- The widths of the record's fields from bit 0 of record byte 0 upward: present, kind, target kind, indicator, target
number, priority, required authority, owner present, expiry present, level, zone, fade bits 9–8, fade bits
7–0, owner, six ignored bits, expiry. -/
def recordWidths : List Nat := [1, 3, 2, 2, 9, 3, 2, 1, 1, 10, 4, 2, 8, 10, 6, 8]

/-- A target kind and number within the kind's range (R2); the number is ignored when the target is absent. -/
def targetOf (kind number : Nat) : Option Target :=
  match kind with
  | 0 => some .absent
  | 1 => if number < Config.circuits then some (.circuit number) else none
  | 2 => if number < Config.groups then some (.group number) else none
  | 3 => if number < Config.presets then some (.preset number) else none
  | _ => none

/-- The pairing table of R2. -/
def pairingAllowed : BindingKind → Target → Bool
  | .latchOn, .absent => false
  | .latchOn, _ => true
  | .latchOff, .absent => false
  | .latchOff, _ => true
  | .toggle, .absent => false
  | .toggle, _ => true
  | .holdToRun, .circuit _ => true
  | .holdToRun, .group _ => true
  | .holdToRun, _ => false
  | .raise, .circuit _ => true
  | .raise, .group _ => true
  | .raise, _ => false
  | .lower, .circuit _ => true
  | .lower, .group _ => true
  | .lower, _ => false
  | .stationClear, .absent => true
  | .stationClear, _ => false
  | .panic, .absent => true
  | .panic, _ => false

/-- A target within its kind's range (R2). -/
def Target.fits : Target → Bool
  | .absent => true
  | .circuit c => decide (c < Config.circuits)
  | .group g => decide (g < Config.groups)
  | .preset p => decide (p < Config.presets)

/-- RAISE and LOWER, whose fade is a travel time of at least 1 (R3). -/
def BindingKind.ramps : BindingKind → Bool
  | .raise => true
  | .lower => true
  | _ => false

/-- Check 4 of R11: every field within its range and the pairing allowed. -/
def Binding.fits (b : Binding) : Bool :=
  b.target.fits && pairingAllowed b.kind b.target && decide (b.level ≤ 1000) && decide (b.fade ≤ 600) &&
    (!b.kind.ramps || decide (1 ≤ b.fade)) && decide (1 ≤ b.priority ∧ b.priority ≤ 7) && decide (b.authority ≤ 3) &&
    decide (b.zone ≤ 15) && decide (∀ o ∈ b.owner, o < Config.bindings) &&
    decide (∀ e ∈ b.expiry, 1 ≤ e ∧ e ≤ 240)

/-- The present field of a packed record. -/
def recordPresent (r : BitVec 72) : Bool := r.toNat % 2 == 1

/-- The record a packed record stands for, present; none where check 4 of R11 refuses it. -/
def readRecord (r : BitVec 72) : Option Binding :=
  match unpackNat recordWidths r.toNat with
  | [_, kind, targetKind, indicator, number, priority, authority, ownerPresent, expiryPresent, level, zone, fadeHigh,
      fadeLow, owner, _, expiry] =>
    match targetOf targetKind number, indicatorRuleOf indicator with
    | some target, some rule =>
      let b : Binding :=
        { present := true, kind := bindingKindOf kind, target := target, level := level, fade := 256 * fadeHigh + fadeLow,
          priority := priority, authority := authority, zone := zone,
          owner := if ownerPresent = 1 then some owner else none,
          expiry := if expiryPresent = 1 then some expiry else none, indicator := rule }
      if b.fits then some b else none
    | _, _ => none
  | _ => none

/-- A record packed into nine bytes, ignored bits 0 (R183). -/
def writeRecord (b : Binding) : BitVec 72 :=
  BitVec.ofNat 72 (packNat
    [yesNo b.present, (3, b.kind.code), (2, b.target.kindCode), (2, b.indicator.code), (9, b.target.number),
     (3, b.priority), (2, b.authority), yesNo b.owner.isSome, yesNo b.expiry.isSome, (10, b.level), (4, b.zone),
     (2, b.fade / 256), (8, b.fade % 256), (10, b.owner.getD 0), (6, 0), (8, b.expiry.getD 0)])

/-! ## Originators (R7, R8) -/

/-- The originator in which a press of the binding at an index works: PRESET p for a preset target, otherwise the owner
field, or the record's own index where the owner is absent. -/
def Binding.originator (b : Binding) (index : Nat) : Originator :=
  match b.target with
  | .preset p => .preset p
  | _ => .binding (b.owner.getD index)

/-! ## Target circuits (R48) -/

/-- What a target lists, each circuit with the level a placement gives it: a circuit or the members of a group with
the level supplied, the entries of a preset with their own. -/
def State.listed (s : State) (target : Target) (level : Nat) : List (Nat × Nat) :=
  match target with
  | .absent => []
  | .circuit c => [(c, level)]
  | .group g => (s.group g).map (fun c => (c, level))
  | .preset p => (s.preset p).entries

/-- The MOVING mapping on one circuit of a list: a circuit that carries a mark is read as the circuit the
mark names, and dropped where the list names that circuit itself. -/
def State.mapOne (s : State) (all : List (Nat × Nat)) (x : Nat × Nat) : Option (Nat × Nat) :=
  match (s.circuit x.1).moving with
  | none => some x
  | some new => if all.any (fun y => y.1 == new) then none else some (new, x.2)

/-- The MOVING mapping of a list. -/
def State.mapMoving (s : State) (l : List (Nat × Nat)) : List (Nat × Nat) := l.filterMap (s.mapOne l)

/-- The target circuits before retired ones are dropped: those of RELEASE_HOLD (R92) and of the indicators (R34). -/
def State.mappedTargets (s : State) (target : Target) (level : Nat) : List (Nat × Nat) :=
  s.mapMoving (s.listed target level)

/-- The target circuits (R48): mapped, the retired ones dropped, in list order. -/
def State.targets (s : State) (target : Target) (level : Nat) : List (Nat × Nat) :=
  (s.mappedTargets target level).filter (fun x => !(s.attrs x.1).retired)

end Sys2Proof.Machine
end

