-- ==== Sys2Proof/Machine/Levels.lean ====
section
/-! DEFINITION. The circuit merger: merged level, output level and rack code of a circuit, evaluated from the state as it
stands (chapter 5, R106). -/
namespace Sys2Proof.Machine

/-- A hold not in FADING_OUT (R69). -/
def Hold.isLive (h : Hold) : Bool := h.state != .fadingOut

/-- The greatest of a list of numbers, 0 when there is none. -/
def greatest (l : List Nat) : Nat := l.foldl max 0

/-- A live hold that the merge counts: unparked (R107). -/
def Hold.countsForBase (h : Hold) : Bool := h.isLive && !h.parked

/-- A fading-out hold that the merge counts (R109). -/
def Hold.countsForPull (h : Hold) : Bool := !h.isLive && !h.parked

/-- The counted live holds of the highest priority present, in list order (R107). -/
def topHolds (list : List Hold) : List Hold :=
  let counted := list.filter Hold.countsForBase
  counted.filter (fun h => h.priority == greatest (counted.map Hold.priority))

/-- The base stage: the highest level (HTP, R107) or the level of the hold nearest the end (LTP, R108) among the
counted live holds of the highest priority, 0 when there is none. -/
def baseLevel (rule : MergeRule) (list : List Hold) : Nat :=
  match rule with
  | .htp => greatest ((topHolds list).map Hold.level)
  | .ltp => ((topHolds list).getLast?.map Hold.level).getD 0

/-- The pull stage: the highest level among counted fading-out holds (R109). -/
def pullLevel (list : List Hold) : Nat := greatest ((list.filter Hold.countsForPull).map Hold.level)

/-- The merged level: the greater of base and pull (R109). -/
def mergedOf (rule : MergeRule) (list : List Hold) : Nat := max (baseLevel rule list) (pullLevel list)

/-- A circuit's contribution list, head first (R70). -/
def contributions (pool : List Hold) (c : Nat) : List Hold := pool.filter (fun h => h.circuit == c)

/-- The merged level of a circuit: what its holds give it, before floors and overlays (R109). -/
def State.mergedLevel (s : State) (c : Nat) : Nat := mergedOf (s.attrs c).mergeRule (contributions s.holds c)

/-- Stages 5 to 8 of the merge: floor, holdover, panic, retirement, in that order (R110 to R113). -/
def overlaid (a : CircuitAttrs) (mode : Mode) (holdover merged : Nat) : Nat :=
  let floored := if a.egress = true ∧ mode ≠ .work then max merged a.floor else merged
  let held := if a.house = true ∧ mode = .holdover then max floored holdover else floored
  let raised := if a.panicParticipant = true ∧ mode = .panic then 1000 else held
  if a.retired then 0 else raised

/-- The output level of a circuit (R113). -/
def State.outputLevel (s : State) (c : Nat) : Nat :=
  overlaid (s.attrs c) s.mode s.config.holdoverLevel (s.mergedLevel c)

/-- The LINEAR curve (R115). -/
def linearCode (l : Nat) : Nat := (l * 255 + 500) / 1000

/-- The SQUARE curve (R116). -/
def squareCode (l : Nat) : Nat := (l * l * 255 + 500000) / 1000000

/-- The SWITCHED curve (R117). -/
def switchedCode (l : Nat) : Nat := if 500 ≤ l then 255 else 0

/-- The rack code a curve gives a level (R114). -/
def curveCode : Curve → Nat → Nat
  | .linear, l => linearCode l
  | .square, l => squareCode l
  | .switched, l => switchedCode l

/-- The rack code of a circuit (R114). -/
def State.rackCode (s : State) (c : Nat) : Nat := curveCode (s.attrs c).curve (s.outputLevel c)

end Sys2Proof.Machine
end

