-- ==== Sys2Proof/Machine/Holds.lean ====
section
/-! DEFINITION. The hold unit (chapter 4): the requests it takes on the pool, and what one hold does in each of them. Every
request is a function of the pool, kept in order of last touch (R70, R71). -/
namespace Sys2Proof.Machine

/-! ## Zones (R134) -/

/-- Where the zone minimum table keeps the entry of a mode and a zone. -/
def zoneIndex (mode : Mode) (zone : Nat) : Nat := 5 * zone + mode.code

/-- The minimum of a zone in the current mode: fixed 3 in PANIC, otherwise the stored entry (R134). -/
def State.zoneMinimum (s : State) (zone : Nat) : ZoneMinimum :=
  if s.mode = .panic then .atLeast 3 else s.config.zoneMinimums.get (.atLeast 0) (zoneIndex s.mode zone)

/-- A zone is closed in the current mode exactly when its entry is CLOSED (R134). -/
def State.zoneClosed (s : State) (zone : Nat) : Bool := s.zoneMinimum zone == .closed

/-- The parked test: the hold's zone is present and CLOSED in the current mode (R72, R85). -/
def State.parks (s : State) : Option Nat → Bool
  | some z => s.zoneClosed z
  | none => false

/-! ## The pool (R68) -/

/-- The hold is the one of an originator on a circuit. -/
def Hold.isOf (c : Nat) (o : Originator) (h : Hold) : Bool := h.circuit == c && h.originator == o

/-- The lowest free slot at or above `k`, looking at `fuel` slots. -/
def freeFrom (pool : List Hold) : Nat → Nat → Option Nat
  | 0, _ => none
  | fuel + 1, k => if pool.all (fun h => h.slot != k) then some k else freeFrom pool fuel (k + 1)

/-- The lowest-numbered free slot (R68); none when the pool is full, which no request lets happen. -/
def lowestFree (pool : List Hold) : Option Nat := freeFrom pool Config.poolSize 0

/-- The number of free records: 512 minus the holds the pool contains (R68). -/
def freeRecords (pool : List Hold) : Nat := Config.poolSize - pool.length

/-- How many of the circuits lack a hold of the originator, in any state (R51). -/
def lacking (pool : List Hold) (o : Originator) (targets : List (Nat × Nat)) : Nat :=
  (targets.filter (fun x => !pool.any (Hold.isOf x.1 o))).length

/-! ## Placing (4.2) -/

/-- What a placement or a ramp start supplies for all its circuits (R54), with the parked field its zone gives. -/
structure Placement where
  originator : Originator
  fade : Nat
  priority : Nat
  zone : Option Nat
  kind : HoldKind
  lastStation : Option Nat
  expiry : Option Nat
  parked : Bool
  deriving DecidableEq, Repr

/-- A hold of the originator at a level on a circuit, with nothing begun. -/
def Hold.blank (slot c : Nat) (rq : Placement) (level : Nat) : Hold :=
  { slot := slot, circuit := c, originator := rq.originator, zone := rq.zone, kind := rq.kind, priority := rq.priority,
    lastStation := rq.lastStation, level := level, start := level, target := level, placedFade := rq.fade, length := 0,
    elapsed := 0, ramp := none, state := .steady, parked := rq.parked, expiry := rq.expiry }

/-- A hold placed from its own current level (R72, R73): every supplied value replaces the old one, and the fade to
the target begins, or lands at once with fade 0. -/
def Hold.placed (h : Hold) (rq : Placement) (target : Nat) : Hold :=
  { h with
    zone := rq.zone, kind := rq.kind, priority := rq.priority, lastStation := rq.lastStation, expiry := rq.expiry,
    parked := rq.parked, placedFade := rq.fade, ramp := none, start := h.level, target := target,
    length := 4 * rq.fade, elapsed := 0,
    level := if rq.fade = 0 then target else h.level,
    state := if rq.fade = 0 then .steady else .fading }

/-- A hold set ramping from its current level (R62, R80); its fade fields and placed fade are kept. -/
def Hold.ramped (h : Hold) (rq : Placement) (direction : RampDirection) : Hold :=
  { h with
    zone := rq.zone, kind := .latch, priority := rq.priority, lastStation := rq.lastStation, expiry := rq.expiry,
    parked := rq.parked, state := .ramping,
    ramp := some { direction := direction, start := h.level, travel := rq.fade, elapsed := 0 } }

/-- The touch of the originator's hold on a circuit: the hold, created in the lowest free slot at the circuit's merged level
if there is none, is changed by `f` and stands at the end of its circuit's list (R70, R72, R73, R80). -/
def touchOn (rq : Placement) (rule : MergeRule) (f : Hold → Hold) (pool : List Hold) (c : Nat) : List Hold :=
  match pool.find? (Hold.isOf c rq.originator) with
  | some h => pool.filter (fun x => !Hold.isOf c rq.originator x) ++ [f h]
  | none =>
    match lowestFree pool with
    | some slot => pool ++ [f (Hold.blank slot c rq (mergedOf rule (contributions pool c)))]
    | none => pool

/-- A placement on a list of target circuits, circuit by circuit in their order (R71). -/
def State.place (s : State) (rq : Placement) (targets : List (Nat × Nat)) : State :=
  s.setHolds (targets.foldl (fun pool x => touchOn rq (s.attrs x.1).mergeRule (fun h => h.placed rq x.2) pool x.1) s.holds)

/-- A ramp start on a list of target circuits (R80). -/
def State.startRamps (s : State) (rq : Placement) (direction : RampDirection) (targets : List (Nat × Nat)) : State :=
  s.setHolds
    (targets.foldl (fun pool x => touchOn rq (s.attrs x.1).mergeRule (fun h => h.ramped rq direction) pool x.1) s.holds)

/-! ## Release (4.4) -/

/-- The release of a live hold: removed at once when parked, at level 0 or with placed fade 0, otherwise fading
out over its placed fade (R77, R87). -/
def Hold.released (h : Hold) : Option Hold :=
  if h.parked = true ∨ h.level = 0 ∨ h.placedFade = 0 then none
  else some { h with state := .fadingOut, start := h.level, target := 0, length := 4 * h.placedFade, elapsed := 0,
                     ramp := none, expiry := none }

/-- The live holds selected are released; a hold in FADING_OUT is left to fade (R77). -/
def releaseWhere (p : Hold → Bool) (pool : List Hold) : List Hold :=
  pool.filterMap (fun h => if h.isLive && p h then h.released else some h)

/-- How many holds a release selects. -/
def countReleased (p : Hold → Bool) (pool : List Hold) : Nat := (pool.filter (fun h => h.isLive && p h)).length

/-- A release of a set of holds (R71). -/
def State.release (s : State) (p : Hold → Bool) : State := s.setHolds (releaseWhere p s.holds)

/-- The holds of an originator on a list of circuits. -/
def Hold.isOn (o : Originator) (targets : List (Nat × Nat)) (h : Hold) : Bool :=
  h.originator == o && targets.any (fun x => x.1 == h.circuit)

/-- The momentary holds whose last station is the station (R29). -/
def Hold.isMomentaryOf (station : Nat) (h : Hold) : Bool := h.kind == .momentary && h.lastStation == some station

/-- The momentary holds whose last station lies on the loop (R39). -/
def Hold.isMomentaryOn (loop : Loop) (h : Hold) : Bool :=
  h.kind == .momentary && h.lastStation.any (fun n => loopOf n == loop)

/-! ## Fades, ramps and expiry (4.3, 4.5, 4.6) -/

/-- The level of a fade from `start` to `target` over `length` steps after `t` of them: the division is truncated toward
zero (R76). -/
def fadeLevel (start target length t : Nat) : Nat :=
  ((start : Int) + Int.tdiv (((target : Int) - (start : Int)) * (t : Int)) (length : Int)).toNat

/-- A ramp's advance by one step from a level (R81): the elapsed count advances only while the level is short of the
limit of its direction. -/
def Ramp.advance (r : Ramp) (level : Nat) : Ramp × Nat :=
  match r.direction with
  | .up =>
    if 1000 ≤ level then (r, level)
    else ({ r with elapsed := r.elapsed + 1 }, min 1000 (r.start + 1000 * (r.elapsed + 1) / (4 * r.travel)))
  | .down =>
    if level = 0 then (r, level)
    else ({ r with elapsed := r.elapsed + 1 }, r.start - 1000 * (r.elapsed + 1) / (4 * r.travel))

/-- One fade step of one hold (R75, R81); none when its fade-out completes and it is removed (R78). -/
def Hold.stepped (h : Hold) : Option Hold :=
  if h.parked then some h
  else match h.state with
    | .steady => some h
    | .fading =>
      if h.length ≤ h.elapsed + 1 then some { h with elapsed := h.elapsed + 1, level := h.target, state := .steady }
      else some { h with elapsed := h.elapsed + 1, level := fadeLevel h.start h.target h.length (h.elapsed + 1) }
    | .fadingOut =>
      if h.length ≤ h.elapsed + 1 then none
      else some { h with elapsed := h.elapsed + 1, level := fadeLevel h.start h.target h.length (h.elapsed + 1) }
    | .ramping =>
      match h.ramp with
      | some r => some { h with ramp := some (r.advance h.level).1, level := (r.advance h.level).2 }
      | none => some h

/-- One minute expiry of one hold (R83): an unparked live hold's expiry remaining is reduced by 1, and at 0 the hold is
released (R84). -/
def Hold.minuted (h : Hold) : Option Hold :=
  if h.parked || !h.isLive then some h
  else match h.expiry with
    | none => some h
    | some e => if e ≤ 1 then { h with expiry := none }.released else some { h with expiry := some (e - 1) }

/-- A hold in expiry warning (R69). -/
def Hold.inWarning (h : Hold) : Bool := h.expiry == some 1

/-- The stop of one ramp (R82). -/
def Hold.stopped (h : Hold) : Hold :=
  if h.state = .ramping then
    { h with state := .steady, target := h.level, start := h.level, length := 0, elapsed := 0, ramp := none }
  else h

/-- A ramp stop on an originator's holds on a list of circuits (R82). -/
def State.stopRamps (s : State) (o : Originator) (targets : List (Nat × Nat)) : State :=
  s.setHolds (s.holds.map (fun h => if h.isOn o targets then h.stopped else h))

/-! ## Parking, removal and move (4.7, 4.8) -/

/-- The parking pass (R85): every hold's parked field by its zone in the current mode, no other field changed. -/
def State.parkingPass (s : State) : State :=
  s.setHolds (s.holds.map (fun h => { h with parked := s.parks h.zone }))

/-- The removal of a circuit's holds, without fade (R88). -/
def State.removeHoldsOn (s : State) (c : Nat) : State := s.setHolds (s.holds.filter (fun h => h.circuit != c))

/-- The holds of the old circuit that a retarget moves: those whose originator has none on the new circuit (R89). -/
def movedHolds (pool : List Hold) (old new : Nat) : List Hold :=
  (contributions pool old).filter (fun h => !pool.any (Hold.isOf new h.originator))

/-- The move of holds (R89): those moved join the end of the new circuit's list in the order they had, the others of
the old circuit are removed. -/
def State.moveHolds (s : State) (old new : Nat) : State :=
  s.setHolds (s.holds.filter (fun h => h.circuit != old) ++
    (movedHolds s.holds old new).map (fun h => { h with circuit := new }))

/-- A preset is busy while a hold it originated is FADING (R130). -/
def State.presetBusy (s : State) (p : Nat) : Bool :=
  s.holds.any (fun h => h.originator == .preset p && h.state == .fading)

/-- The placement that the console's values make (R91, R129): no last station, no expiry, kind LATCH. -/
def State.consolePlacement (s : State) (o : Originator) (fade priority : Nat) (zone : Option Nat) : Placement :=
  { originator := o, fade := fade, priority := priority, zone := zone, kind := .latch, lastStation := none,
    expiry := none, parked := s.parks zone }

end Sys2Proof.Machine
end

