-- ==== Sys2Proof/Machine/Images.lean ====
section
/-! DEFINITION. Indicator images (2.6): what an image is computed from (R35), the state of each control (R34), and the
recomputation that makes an image pending. -/
namespace Sys2Proof.Machine

/-- What R34 reads of one hold: whether it is fading out, parked, and in expiry warning. -/
structure HoldView where
  fadingOut : Bool
  parked : Bool
  warning : Bool
  deriving DecidableEq, Repr

/-- What the image state of one control is computed from (R35): its binding, what the target lists, the circuits that names after
the MOVING reading, the holds of the originator there, and those circuits' output levels. -/
structure ControlInputs where
  binding : Binding
  listed : List Nat
  circuits : List Nat
  holds : List HoldView
  levels : List Nat
  deriving DecidableEq, Repr

/-- What a station's image is computed from (R35); a control with no binding has none. -/
structure ImageInputs where
  enrolled : Bool
  base : Nat
  count : Nat
  mode : Mode
  controls : List (Option ControlInputs)
  deriving DecidableEq, Repr

/-- A hold as R34 sees it. -/
def Hold.view (h : Hold) : HoldView := { fadingOut := !h.isLive, parked := h.parked, warning := h.inWarning }

/-- The inputs of one control that reaches a present binding. A preset's own zone is none of them: R125 names the indicator tests
among its uses and R34 gives them no zone, which the model follows (log 21). -/
def State.controlInputs (s : State) (index : Nat) (b : Binding) : ControlInputs :=
  let circuits := s.mappedTargets b.target b.level
  { binding := b
    listed := (s.listed b.target b.level).map Prod.fst
    circuits := circuits.map Prod.fst
    holds := (s.holds.filter (Hold.isOn (b.originator index) circuits)).map Hold.view
    levels := if b.indicator = .followLevel then circuits.map (fun x => s.outputLevel x.1) else [] }

/-- The binding that control `c` of a station reaches, with its index: none beyond the count or the table, or where the record is
empty (R9, R34). -/
def State.reached (s : State) (slot : StationConfig) (c : Nat) : Option (Nat × Binding) :=
  if c < slot.count ∧ slot.base + c ≤ 1023 ∧ (s.binding (slot.base + c)).present = true then
    some (slot.base + c, s.binding (slot.base + c))
  else none

/-- Everything the image of a station is computed from, as it stands (R35). -/
def State.imageInputs (s : State) (n : Nat) : ImageInputs :=
  let slot := s.slot n
  { enrolled := slot.enrolled, base := slot.base, count := slot.count, mode := s.mode
    controls := (List.range 16).map (fun c => (s.reached slot c).map (fun x => s.controlInputs x.1 x.2)) }

/-- FOLLOW_HOLD: the first of R34's list that applies. -/
def followHold (holds : List HoldView) : Indicator :=
  if holds.any (fun h => !h.fadingOut && !h.parked && h.warning) then .fastFlash
  else if holds.any (fun h => !h.fadingOut && !h.parked) then .on
  else if holds.any (fun h => !h.fadingOut && h.parked) then .slowFlash
  else .off

/-- FOLLOW_LEVEL: ON when a target circuit's output level is above 0; as FOLLOW_HOLD for a preset target (R34). -/
def followLevel (x : ControlInputs) : Indicator :=
  match x.binding.target with
  | .preset _ => followHold x.holds
  | _ => if x.levels.any (fun l => decide (0 < l)) then .on else .off

/-- The image state of a control that reaches a present binding (R34). -/
def controlState (mode : Mode) (x : ControlInputs) : Indicator :=
  match x.binding.kind with
  | .panic => if mode = .panic then .on else .off
  | .stationClear => .off
  | _ =>
    match x.binding.indicator with
    | .followHold => followHold x.holds
    | .followLevel => followLevel x
    | .dark => .off

/-- The image that a station's inputs give (R34). -/
def ImageInputs.image (x : ImageInputs) : List Indicator :=
  x.controls.map (fun c => (c.map (controlState x.mode)).getD .off)

/-- The current image of an enrolled station (R34). -/
def State.image (s : State) (n : Nat) : List Indicator := (s.imageInputs n).image

/-- A poll carrying an image to the station awaits its reply (R35). -/
def State.imageInFlight (s : State) (n : Nat) : Bool :=
  match (s.loopState (loopOf n)).inFlight with
  | some p => decide (stationNumber (loopOf n) p.address = n) && p.image.isSome
  | none => false

/-- Image pending after a recomputation gave the image (R35): yes where it differs from the last-sent image; no where it
equals it, unless a poll carrying an image awaits its reply or a forced pending stands. -/
def StationLive.recomputed (v : StationLive) (image : List Indicator) (inFlight : Bool) : StationLive :=
  if image ≠ v.lastImage then { v with imagePending := true }
  else if inFlight = true ∨ v.forced = true then v
  else { v with imagePending := false }

/-- One station's recomputation after a change from `before` (R35): made where the station is enrolled and an input of
its image has changed. -/
def State.recomputeOne (before after : State) (n : Nat) (v : StationLive) : StationLive :=
  if (after.slot n).enrolled = true ∧ after.imageInputs n ≠ before.imageInputs n then
    v.recomputed (after.image n) (after.imageInFlight n)
  else v

/-- The images recomputed after an action that led from `before` to `after` (R35). -/
def State.recomputeImages (before after : State) : State :=
  { after with stations := after.stations.mapNumbered (State.recomputeOne before after) }

end Sys2Proof.Machine
end

