-- ==== Sys2Proof/Machine/Retarget.lean ====
section
/-! DEFINITION. The retarget sweeper (chapter 9). -/
namespace Sys2Proof.Machine

/-- An accepted edit of R174's list discards an ABORTED continuation (R176); the changed-record count is kept. -/
def State.discardContinuation (s : State) : State :=
  match s.sweeper.state with
  | .aborted _ => { s with sweeper := { s.sweeper with state := .idle } }
  | _ => s

/-- The MOVING mark of a circuit, set or cleared (R99). -/
def State.mark (s : State) (c : Nat) (new : Option Nat) : State := s.setCircuit c { s.circuit c with moving := new }

/-! ## Issuing (9.2, 9.5) -/

/-- The first record of a sweep (R170). -/
def SweepPosition.first : SweepPosition := ⟨.bindings, 0⟩

/-- The continuation that a RETARGET of these circuits re-issues, if any (R170). -/
def Sweeper.continuation (w : Sweeper) (old new : Nat) : Option SweepJob :=
  match w.state with
  | .aborted job => if job.oldCircuit = old ∧ job.newCircuit = new then some job else none
  | _ => none

/-- The mark of a fresh issue in the result; FREE VALUE in which bit it is (log 6). -/
def freshMark (fresh : Bool) : Nat × Nat := yesNo (fresh == Config.freshIssueBit)

/-- A fresh issue (R170, R171): a sweep from the first record, the MOVING mark, the move of holds. -/
def State.issueFresh (s : State) (old new : Nat) : State :=
  ({ s with sweeper := { state := .sweeping ⟨old, new, .first⟩, changed := 0 } }.mark old (some new)).moveHolds old new

/-- A re-issue (R176): the sweep resumed from the kept position, the mark set again, no holds moved. -/
def State.reissue (s : State) (job : SweepJob) : State :=
  { s with sweeper := { state := .sweeping job, changed := 0 } }.mark job.oldCircuit (some job.newCircuit)

/-- RETARGET (R170, R176). -/
def execRetarget (oldCircuit newCircuit : Half) (s : State) : Host.Outcome State Fault Refusal :=
  hostCommand s fun s =>
    let old := oldCircuit.toNat
    let new := newCircuit.toNat
    if s.sweeper.active then .refuse s 0x38 .sweepActive (.circuit old)
    else if 383 < old ∨ 383 < new ∨ old = new then .refuse s 0x38 .badParameter (.circuit old)
    else if (s.attrs new).retired then .refuse s 0x38 .circuitRetired (.circuit new)
    else match s.sweeper.continuation old new with
      | some job =>
        .ok (s.recomputeImages (s.reissue job))
          [(9, old), (9, new), freshMark false, (12, job.position.code), (10, 0), (10, 0)]
      | none =>
        let moved := (movedHolds s.holds old new).length
        .ok (s.recomputeImages (s.issueFresh old new))
          [(9, old), (9, new), freshMark true, (10, moved), (10, (contributions s.holds old).length - moved)]

/-! ## Visits (9.3) -/

/-- A group's list after a visit (R172): old replaced by new in place, or deleted where the list names new too. -/
def visitedGroup (l : List Nat) (old new : Nat) : List Nat :=
  if l.contains new then l.filter (fun c => c != old) else l.map (fun c => if c = old then new else c)

/-- A preset's entries after a visit (R172): the level and position of a replaced entry are kept. -/
def visitedEntries (l : List (Nat × Nat)) (old new : Nat) : List (Nat × Nat) :=
  if l.any (fun x => x.1 == new) then l.filter (fun x => x.1 != old)
  else l.map (fun x => if x.1 = old then (new, x.2) else x)

/-- Whether a visit rewrites the record at the position, and is counted (R172). -/
def State.visitCounts (s : State) (job : SweepJob) : Bool :=
  match job.position.table with
  | .bindings =>
    (s.binding job.position.index).present && (s.binding job.position.index).target == .circuit job.oldCircuit
  | .groups => (s.group job.position.index).contains job.oldCircuit
  | .presets => (s.preset job.position.index).entries.any (fun x => x.1 == job.oldCircuit)

/-- The record at the position rewritten (R172); nothing where the visit does not count. -/
def State.rewriteRecord (s : State) (job : SweepJob) : State :=
  let i := job.position.index
  if s.visitCounts job then
    match job.position.table with
    | .bindings => s.setBinding i { s.binding i with target := .circuit job.newCircuit }
    | .groups => s.setGroup i (visitedGroup (s.group i) job.oldCircuit job.newCircuit)
    | .presets =>
      s.setPreset i { s.preset i with entries := visitedEntries (s.preset i).entries job.oldCircuit job.newCircuit }
  else s

/-- The next position; none after preset 47 (R172, R173). -/
def SweepPosition.next (p : SweepPosition) : Option SweepPosition :=
  match p.table with
  | .bindings => if p.index < 1023 then some ⟨.bindings, p.index + 1⟩ else some ⟨.groups, 0⟩
  | .groups => if p.index < 63 then some ⟨.groups, p.index + 1⟩ else some ⟨.presets, 0⟩
  | .presets => if p.index < 47 then some ⟨.presets, p.index + 1⟩ else none

/-- One visit (R172), with the completion after preset 47 (R173). -/
def State.visit (s : State) (job : SweepJob) : State :=
  let changed := s.sweeper.changed + (s.visitCounts job).toNat
  match job.position.next with
  | some p => { s.rewriteRecord job with sweeper := { state := .sweeping { job with position := p }, changed := changed } }
  | none =>
    ({ s.rewriteRecord job with sweeper := { state := .idle, changed := changed } }.mark job.oldCircuit none).latchSweep
      .done job changed

/-- SWEEP_VISIT (R172): taken while a sweep is in flight. -/
def execSweepVisit (s : State) : Host.Outcome State Fault Refusal :=
  whenPowered s
    (match s.sweeper.state with
     | .sweeping job => s.recomputeImages (s.visit job)
     | _ => s)

/-! ## Abort (9.5) -/

/-- The sweep in flight made ABORTED, its mark cleared (R175, R177). -/
def State.abortSweep (s : State) (job : SweepJob) : State :=
  { s with sweeper := { s.sweeper with state := .aborted job } }.mark job.oldCircuit none

/-- SWEEP_ABORT (R175). -/
def execSweepAbort (s : State) : Host.Outcome State Fault Refusal :=
  hostCommand s fun s =>
    match s.sweeper.state with
    | .sweeping job =>
      .ok ((s.recomputeImages ((s.abortSweep job).latchSweep .aborted job s.sweeper.changed)).writeSense 0x39 .ok
          (.sweepPosition job.position))
        [(9, job.oldCircuit), (9, job.newCircuit), (12, job.position.code), (11, s.sweeper.changed)]
    | _ => .refuse s 0x39 .notFound .none

end Sys2Proof.Machine
end

