-- ==== Sys2Proof/Machine/Bindings.lean ====
section
/-! DEFINITION. The commands on the binding table (1.5). -/
namespace Sys2Proof.Machine

/-- A record written or cleared at an index (R12 to R14): the table, the images that reach it, and the discarded
continuation (R176). The result data carry the index and whether the record was present before. -/
def replaceBinding (s : State) (i : Nat) (b : Binding) : Reply :=
  .ok (s.recomputeImages (s.setBinding i b).discardContinuation) [(10, i), yesNo (s.binding i).present]

/-- WRITE_BINDING (R11 to R13). -/
def execWriteBinding (index : Half) (record : BitVec 72) (s : State) : Host.Outcome State Fault Refusal :=
  hostCommand s fun s =>
    let i := index.toNat
    if s.sweeper.active then .refuse s 0x10 .sweepActive (.binding i)
    else if 1023 < i then .refuse s 0x10 .badParameter (.binding i)
    else if recordPresent record = false then replaceBinding s i .empty
    else match readRecord record with
      | some b => replaceBinding s i b
      | none => .refuse s 0x10 .badParameter (.binding i)

/-- CLEAR_BINDING (R14). -/
def execClearBinding (index : Half) (s : State) : Host.Outcome State Fault Refusal :=
  hostCommand s fun s =>
    let i := index.toNat
    if s.sweeper.active then .refuse s 0x12 .sweepActive (.binding i)
    else if 1023 < i then .refuse s 0x12 .badParameter (.binding i)
    else replaceBinding s i .empty

/-- READ_BINDING (R15): the nine packed bytes as data bytes 1–9, data byte 10 being 0 (R183). -/
def execReadBinding (index : Half) (s : State) : Host.Outcome State Fault Refusal :=
  hostCommand s fun s =>
    let i := index.toNat
    if 1023 < i then .refuse s 0x11 .badParameter (.binding i)
    else .ok s [(72, (writeRecord (s.binding i)).toNat)]

end Sys2Proof.Machine
end

