-- ==== Sys2Proof/Machine/Modes.lean ====
section
/-! DEFINITION. The house mode unit (chapter 7): mode changes, the zone minimum table, holdover, panic and the show lock. -/
namespace Sys2Proof.Machine

/-! ## Mode changes -/

/-- A mode change (R136): the new mode, a MODE event with the cause, and a parking pass under the new mode. -/
def State.changeMode (s : State) (mode : Mode) (cause : ModeCause) : State :=
  ({ s with mode := mode }.latchMode mode cause).parkingPass

/-- A request to enter PANIC (R142): it changes nothing when the mode is already PANIC. -/
def State.enterPanic (s : State) (cause : ModeCause) : State :=
  if s.mode = .panic then s else s.changeMode .panic cause

/-- A lapse of the show lock (R153): the lock becomes FREE; from SHOW the mode becomes HOLDOVER, in any other mode the
lapse is reported and nothing else changes. -/
def State.lapse (s : State) (cause : ModeCause) : State :=
  if s.mode = .show then { s with lock := .free }.changeMode .holdover cause
  else { s with lock := .free }.latchMode s.mode cause

/-- Checks 1 to 5 of SET_MODE (R138): the mode requested, or the refusal. -/
def checkSetMode (s : State) (code : Nat) : Except ResultCode Mode :=
  match modeOf code with
  | none => .error .badParameter
  | some m =>
    if m = .holdover ∨ m = .panic then .error .badParameter
    else if s.mode = .panic then .error .modeConflict
    else if m = .work ∧ s.mode = .show then .error .modeConflict
    else if m = .show ∧ s.mode = .work then .error .modeConflict
    else if m = .show ∧ s.lock = .free then .error .lockState
    else .ok m

/-- The data of a SET_MODE that names the current mode: FREE VALUE between the mode twice and none (log 7). -/
def unchangedModeData (m : Mode) : List (Nat × Nat) :=
  if Config.reportsUnchangedMode then [(3, m.code), (3, m.code)] else []

/-- SET_MODE (R138). -/
def execSetMode (mode : Byte) (s : State) : Host.Outcome State Fault Refusal :=
  hostCommand s fun s =>
    match checkSetMode s mode.toNat with
    | .error r => .refuse s 0x30 r .none
    | .ok m =>
      if m = s.mode then .ok s (unchangedModeData m)
      else .ok (s.recomputeImages (s.changeMode m .setMode)) [(3, s.mode.code), (3, m.code)]

/-! ## Zones and holdover -/

/-- SET_ZONE_MINIMUM (R135): one entry replaced, with a parking pass when the mode written is the current one. -/
def execSetZoneMinimum (mode zone value : Byte) (s : State) : Host.Outcome State Fault Refusal :=
  hostCommand s fun s =>
    match modeOf mode.toNat, zoneMinimumOf value.toNat with
    | some m, some v =>
      if m = .panic ∨ 15 < zone.toNat then .refuse s 0x31 .badParameter .none
      else
        let i := zoneIndex m zone.toNat
        let written := { s with config := { s.config with zoneMinimums := s.config.zoneMinimums.set i v } }
        let parked := if m = s.mode then written.parkingPass else written
        .ok (s.recomputeImages parked)
          [(3, m.code), (4, zone.toNat), (3, (s.config.zoneMinimums.get (.atLeast 0) i).code)]
    | _, _ => .refuse s 0x31 .badParameter .none

/-- SET_HOLDOVER_LEVEL (R140). -/
def execSetHoldoverLevel (level : Half) (s : State) : Host.Outcome State Fault Refusal :=
  hostCommand s fun s =>
    if 1000 < level.toNat then .refuse s 0x32 .badParameter .none
    else .ok (s.recomputeImages { s with config := { s.config with holdoverLevel := level.toNat } })
      [(10, s.config.holdoverLevel)]

/-! ## Panic -/

/-- The PANIC command (R143). -/
def execPanic (s : State) : Host.Outcome State Fault Refusal :=
  hostCommand s fun s => .ok (s.recomputeImages (s.enterPanic .panicCommand)) [(3, s.mode.code)]

/-- CLEAR_PANIC (R146). -/
def execClearPanic (s : State) : Host.Outcome State Fault Refusal :=
  hostCommand s fun s =>
    if s.mode = .panic ∧ s.panicLatch = false then
      .ok (s.recomputeImages (s.changeMode .openHouse .clearPanic)) []
    else .refuse s 0x37 .modeConflict .none

/-- PANIC_INPUT_ACTIVE (R141): the latch becomes active and PANIC is entered. -/
def execPanicInputActive (s : State) : Host.Outcome State Fault Refusal :=
  whenPowered s (s.recomputeImages ({ s with panicLatch := true }.enterPanic .panicInput))

/-- PANIC_INPUT_INACTIVE (R141): the latch becomes inactive; the mode is not changed and no event is latched. -/
def execPanicInputInactive (s : State) : Host.Outcome State Fault Refusal :=
  whenPowered s { s with panicLatch := false }

/-! ## The show lock -/

/-- LOCK_TAKE (R148). -/
def execLockTake (period : Byte) (s : State) : Host.Outcome State Fault Refusal :=
  hostCommand s fun s =>
    if period.toNat < 5 ∨ 80 < period.toNat then .refuse s 0x33 .badParameter .none
    else if s.lock.isHeld then .refuse s 0x33 .lockState .none
    else .ok { s with lock := .first { period := period.toNat, lastToggle := false, since := s.clock } }
      [(2, 1), (7, period.toNat)]

/-- The reasons of a LOCK_STATE refusal of LOCK_RENEW, in the order in which R149 and R150 name them. -/
def reasonNotHeld : List (Nat × Nat) := [(2, 0)]
def reasonSameToggle : List (Nat × Nat) := [(2, 1)]
def reasonEarly : List (Nat × Nat) := [(2, 2)]

/-- An elapsed time in units of 10 ms (R149); FREE VALUE in its rounding where it is no whole number of units (log 5). -/
def tenMilliseconds (ticks : Nat) : Nat :=
  if ticks % Config.ticksPer10ms = 0 then ticks / Config.ticksPer10ms
  else ticks / Config.ticksPer10ms + (Config.timeRoundsUp ticks).toNat

/-- A valid renewal with toggle `t` (R149): WINDOWED, the period restarting at the moment of the command. -/
def validRenewal (s : State) (h : LockHeld) (t : Bool) : Reply :=
  .ok { s with lock := .windowed { h with lastToggle := t, since := s.clock } }
    [(2, 2), yesNo t, (10, tenMilliseconds (s.clock - h.since))]

/-- The toggle of a LOCK_RENEW; none where the parameter is not 0 or 1. -/
def toggleOf (t : Byte) : Option Bool :=
  if t.toNat = 0 then some false else if t.toNat = 1 then some true else none

/-- LOCK_RENEW (R149, R150): FREE and a repeated toggle refuse it; a renewal is valid in FIRST and in the open half of
WINDOWED; in the closed half the lock lapses EARLY. -/
def execLockRenew (toggle : Byte) (s : State) : Host.Outcome State Fault Refusal :=
  hostCommand s fun s =>
    match toggleOf toggle with
    | none => .refuse s 0x34 .badParameter .none
    | some t =>
      match s.lock with
      | .free => .refuse s 0x34 .lockState .none reasonNotHeld
      | .first h => if t = h.lastToggle then .refuse s 0x34 .lockState .none reasonSameToggle else validRenewal s h t
      | .windowed h =>
        if t = h.lastToggle then .refuse s 0x34 .lockState .none reasonSameToggle
        else if s.clock - h.since < Config.closedTicks h.period then
          .refuse (s.recomputeImages (s.lapse .early)) 0x34 .lockState .none reasonEarly
        else validRenewal s h t

/-- LOCK_GIVE (R152). The mode asked is the one it finds: after an expiry taken first in SHOW that is HOLDOVER, and the give is
accepted. R152 has a give "In SHOW" refused "in either order"; this reading of the two is the model's choice (log 22). -/
def execLockGive (s : State) : Host.Outcome State Fault Refusal :=
  hostCommand s fun s =>
    if s.mode = .show then .refuse s 0x35 .modeConflict .none
    else .ok { s with lock := .free } [(2, s.lock.code)]

/-- The lock's period has run out (R147): the lock is held, and P × 100 ms have passed since the period start. -/
def State.lockRunOut (s : State) : Bool :=
  match s.lock with
  | .free => false
  | .first h => decide (h.since + Config.lockTicks h.period ≤ s.clock)
  | .windowed h => decide (h.since + Config.lockTicks h.period ≤ s.clock)

/-- LOCK_TIMER_EXPIRY (R147, R151): once the period has run out the lock lapses LATE. A valid renewal moves the expiry on, so one
that arrived with it is not taken; nor is one while the lock is FREE, whose timer does not run (log 8). -/
def execLockTimerExpiry (s : State) : Host.Outcome State Fault Refusal :=
  whenPowered s (if s.lockRunOut then s.recomputeImages (s.lapse .late) else s)

end Sys2Proof.Machine
end

