-- ==== Sys2Proof/Machine/Stations.lean ====
section
/-! DEFINITION. The station loops (chapter 2): station records, the poll round, replies and misses, key reports and the press
queue, LOOP_RESTART. -/
namespace Sys2Proof.Machine

/-! ## Station records -/

/-- A usable station number: 1–63 or 65–127 (R20). -/
def stationUsable (n : Nat) : Bool := decide (n ≤ 127 ∧ n ≠ 0 ∧ n ≠ 64)

/-- The release that a station's silence or unenrollment asks for (R29, R79). -/
def State.releaseMomentaryOf (s : State) (n : Nat) : State := s.release (Hold.isMomentaryOf n)

/-- The live half when enrolled goes from no to yes (R21). -/
def StationLive.enrolling (v : StationLive) : StationLive :=
  if v.presence = .heard then { v with presence := .online, imagePending := true, forced := true } else v

/-- The live half when enrolled goes from yes to no (R21). -/
def StationLive.unenrolling (v : StationLive) : StationLive :=
  { v with presence := if v.presence = .online then .heard else .unknown, missCount := 0, imagePending := false,
           forced := false }

/-- The further effects of a change of enrolled (R21). -/
def State.adjustEnrollment (s : State) (n : Nat) (was now : Bool) : State :=
  if was = false ∧ now = true then
    if (s.live n).presence = .heard then (s.setLive n (s.live n).enrolling).latchStation n else s
  else if was = true ∧ now = false then (s.setLive n (s.live n).unenrolling).releaseMomentaryOf n
  else s

/-- WRITE_STATION (R20, R21). -/
def execWriteStation (station enrolled : Byte) (base : Half) (count authority : Byte) (s : State) :
    Host.Outcome State Fault Refusal :=
  hostCommand s fun s =>
    let n := station.toNat
    if !stationUsable n ∨ 1023 < base.toNat ∨ count.toNat = 0 ∨ 16 < count.toNat ∨ 3 < authority.toNat then
      .refuse s 0x08 .badParameter (.station n)
    else
      let new : StationConfig :=
        { enrolled := readYes enrolled, base := base.toNat, count := count.toNat, authority := authority.toNat }
      let was := (s.slot n).enrolled
      .ok (s.recomputeImages ((s.setSlot n new).adjustEnrollment n was new.enrolled)) [(7, n), yesNo was]

/-- READ_STATION (R22). -/
def execReadStation (station : Byte) (s : State) : Host.Outcome State Fault Refusal :=
  hostCommand s fun s =>
    let n := station.toNat
    if !stationUsable n then .refuse s 0x09 .badParameter (.station n)
    else
      let c := s.slot n
      let v := s.live n
      .ok s [yesNo c.enrolled, (10, c.base), (5, c.count), (2, c.authority), (2, v.presence.code), (2, v.missCount),
        (2, expectedCode v.expected), (3, v.answer.code), yesNo v.imagePending, (16, v.deny.toNat)]

/-! ## The poll round (2.2) -/

/-- The addresses of a loop, 1–63. -/
def addresses : List Nat := (List.range 63).map (fun k => k + 1)

/-- A station is enrolled at the address. -/
def State.enrolledAt (s : State) (loop : Loop) (a : Nat) : Bool := (s.slot (stationNumber loop a)).enrolled

/-- The lowest enrolled address above `position` (R23). -/
def State.nextEnrolled (s : State) (loop : Loop) (position : Nat) : Option Nat :=
  addresses.find? (fun a => decide (position < a) && s.enrolledAt loop a)

/-- The first address above the cursor, wrapping from 63 to 1, at which no station is enrolled (R24). -/
def State.nextDiscovery (s : State) (loop : Loop) (cursor : Nat) : Option Nat :=
  (addresses.filter (fun a => decide (cursor < a)) ++ addresses.filter (fun a => decide (a ≤ cursor))).find?
    (fun a => !s.enrolledAt loop a)

/-- The address of the next POLL: the next enrolled address of the round, or, on a loop with no address to
discover, the first of a new round (R23, R24); none when the round's discovery poll is due. -/
def State.nextPoll (s : State) (loop : Loop) : Option Nat :=
  match s.nextEnrolled loop (s.loopState loop).position with
  | some a => some a
  | none => if (s.nextDiscovery loop (s.loopState loop).cursor).isNone then s.nextEnrolled loop 0 else none

/-- The POLL built for an address, from the station's live half as it stands (R25); a discovery poll carries no image. -/
def State.buildPoll (s : State) (loop : Loop) (a : Nat) (discovery : Bool) : PollSent :=
  let n := stationNumber loop a
  let v := s.live n
  { address := a, answer := v.answer, deny := v.deny,
    image := if v.imagePending = true ∧ discovery = false then some (s.image n) else none }

/-- The POLL is sent: the answer owed becomes NONE, since the poll now carries it (R25), and the transaction is in flight. -/
def State.sendPoll (s : State) (loop : Loop) (next : LoopState) (a : Nat) (discovery : Bool) : State :=
  let n := stationNumber loop a
  (s.setLive n { s.live n with answer := .none }).setLoop loop { next with inFlight := some (s.buildPoll loop a discovery) }

/-- POLL (R23, R25): taken when no transaction is in flight on the loop and the round has an address to poll. -/
def execPoll (loop : Loop) (s : State) : Host.Outcome State Fault Refusal :=
  whenPowered s
    (if (s.loopState loop).inFlight.isSome then s
     else match s.nextPoll loop with
      | some a => s.sendPoll loop { s.loopState loop with position := a } a false
      | none => s)

/-- DISCOVERY_POLL (R24): taken when no transaction is in flight and the round has no enrolled address left. The
cursor moves to the address polled, and a new round begins; with all 63 addresses enrolled no poll is sent. -/
def execDiscoveryPoll (loop : Loop) (s : State) : Host.Outcome State Fault Refusal :=
  whenPowered s
    (if (s.loopState loop).inFlight.isSome ∨ (s.nextEnrolled loop (s.loopState loop).position).isSome then s
     else match s.nextDiscovery loop (s.loopState loop).cursor with
      | some a => s.sendPoll loop { s.loopState loop with position := 0, cursor := a } a true
      | none => s.setLoop loop { s.loopState loop with position := 0 })

/-- The bytes of a POLL (2.3). -/
def pollBytes (p : PollSent) : List Byte :=
  let body :=
    [BitVec.ofNat 8 (p.address + 64 * p.image.isSome.toNat + 128 * (decide (p.deny ≠ 0)).toNat), BitVec.ofNat 8 p.answer.code] ++
      (match p.image with
       | some image => leBytes 4 (packNat (image.map (fun i => (2, i.code))))
       | none => []) ++
      (if p.deny = 0 then [] else leBytes 2 p.deny.toNat)
  body ++ [loopCheck body]

/-! ## Valid replies (R25, R27) -/

/-- The poll taken as received (R25): the image it carried becomes the last-sent image, its deny marks are removed. No image
is pending for an unenrolled station (R35). -/
def StationLive.received (v : StationLive) (p : PollSent) (enrolled : Bool) (current : List Indicator) : StationLive :=
  match p.image with
  | some image =>
    { v with lastImage := image, imagePending := enrolled && decide (current ≠ image), forced := false,
             deny := v.deny &&& ~~~ p.deny }
  | none => { v with deny := v.deny &&& ~~~ p.deny }

/-- Whether a valid reply latches a STATION event (R27). -/
def StationLive.newlyHeard (v : StationLive) (enrolled : Bool) : Bool :=
  if enrolled then v.presence == .unknown || v.presence == .silent else v.presence == .unknown

/-- Presence after a valid reply (R27). -/
def StationLive.replied (v : StationLive) (enrolled : Bool) : StationLive :=
  if enrolled then
    if v.newlyHeard true then { v with missCount := 0, presence := .online, imagePending := true, forced := true }
    else { v with missCount := 0, presence := .online }
  else { v with missCount := 0, presence := .heard }

/-- The transaction on a loop ends. -/
def State.endPoll (s : State) (loop : Loop) : State := s.setLoop loop { s.loopState loop with inFlight := none }

/-- What any valid reply does, before its contents are handled (R26): R25 for the poll it answers, then R27. -/
def State.takeReply (s : State) (loop : Loop) (p : PollSent) : State :=
  let n := stationNumber loop p.address
  let enrolled := (s.slot n).enrolled
  let v := (s.live n).received p enrolled (s.image n)
  let t := (s.endPoll loop).setLive n (v.replied enrolled)
  if v.newlyHeard enrolled then t.latchStation n else t

/-! ## Misses (R28, R29) -/

/-- The live half of a station that becomes SILENT (R28). -/
def StationLive.silenced (v : StationLive) : StationLive :=
  { v with missCount := 3, presence := .silent, deny := 0, answer := .none }

/-- A miss for the polled station (R28): the third in a row makes an enrolled station SILENT, which releases its
momentary holds (R29), and a HEARD one UNKNOWN. -/
def State.takeMiss (s : State) (loop : Loop) (p : PollSent) : State :=
  let n := stationNumber loop p.address
  let v := s.live n
  let t := s.endPoll loop
  if (s.slot n).enrolled then
    if v.missCount = 2 then ((t.setLive n v.silenced).latchStation n).releaseMomentaryOf n
    else t.setLive n { v with missCount := min 3 (v.missCount + 1) }
  else if v.presence = .heard then
    if 2 ≤ v.missCount then (t.setLive n { v with missCount := 0, presence := .unknown }).latchStation n
    else t.setLive n { v with missCount := v.missCount + 1 }
  else t

/-- A reply on a loop (R26): with no poll in flight it is ignored; a reply that is not valid, or not of the
address polled, is a miss; a valid one is handled by R25 and R27, then by `contents`. -/
def State.replyOn (s : State) (loop : Loop) (address : Nat) (valid : Bool) (contents : State → Nat → State) : State :=
  match (s.loopState loop).inFlight with
  | none => s
  | some p =>
    if valid = true ∧ address = p.address then contents (s.takeReply loop p) (stationNumber loop p.address)
    else s.recomputeImages (s.takeMiss loop p)

/-- IDLE_REPLY (R26, R27). -/
def execIdleReply (loop : Loop) (address : BitVec 6) (s : State) : Host.Outcome State Fault Refusal :=
  whenPowered s (s.replyOn loop address.toNat true (fun t _ => t))

/-- STATION_MISS (R26, R28): with no poll in flight there is no window to close. -/
def execStationMiss (loop : Loop) (s : State) : Host.Outcome State Fault Refusal :=
  whenPowered s (s.replyOn loop 0 false (fun t _ => t))

/-! ## Key reports (2.5) -/

/-- A report is new when the expected bit is UNLEARNED or equals its bit (R31). -/
def isNewReport (expected : Option Bool) (bit : Bool) : Bool :=
  match expected with
  | none => true
  | some e => e == bit

/-- The press entries of a report, in its order (R32). -/
def reportEntries (n : Nat) (loop : Loop) (ts : List Transition) : List PressEntry :=
  ts.map (fun t => { station := n, control := t.control.toNat, edge := t.edge, loop := loop })

/-- One control as a deny mask. -/
def controlMask (c : Nat) : BitVec 16 := BitVec.ofNat 16 (2 ^ c)

/-- The controls of a report as a deny mask (R33). -/
def reportMask (ts : List Transition) : BitVec 16 := ts.foldl (fun m t => m ||| controlMask t.control.toNat) 0

/-- A key report from an unenrolled station (R33): acknowledged and discarded; a new one adds its controls as deny
marks and is learned. -/
def StationLive.unenrolledReport (v : StationLive) (bit : Bool) (ts : List Transition) : StationLive :=
  if isNewReport v.expected bit then
    { v with answer := .ack bit, deny := v.deny ||| reportMask ts, expected := some (!bit) }
  else { v with answer := .ack bit }

/-- The contents of a valid key report (R31 to R33): a duplicate is acknowledged; a new report is taken whole when the
queue has room for all its transitions, and answered WAIT when it has not. -/
def State.takeReport (s : State) (loop : Loop) (n : Nat) (bit : Bool) (ts : List Transition) : State :=
  let v := s.live n
  if (s.slot n).enrolled = false then s.setLive n (v.unenrolledReport bit ts)
  else if isNewReport v.expected bit = false then s.setLive n { v with answer := .ack bit }
  else if ts.length ≤ Config.queueSize - s.queue.length then
    { (s.setLive n { v with answer := .ack bit, expected := some (!bit) }) with
      queue := s.queue ++ reportEntries n loop ts }
  else s.setLive n { v with answer := .wait }

/-- KEY_REPORT (R26, R27, R31 to R33). -/
def execKeyReport (loop : Loop) (address : BitVec 6) (sequence : Bool) (transitions : List Transition) (s : State) :
    Host.Outcome State Fault Refusal :=
  whenPowered s
    (s.replyOn loop address.toNat (reportFits transitions) (fun t n => t.takeReport loop n sequence transitions))

/-! ## Restarting a loop (2.9) -/

/-- Every station slot of the loops selected takes the live values of R19. -/
def State.freshStations (s : State) (chosen : Loop → Bool) : State :=
  let one (n : Nat) (v : StationLive) : StationLive :=
    if chosen (loopOf n) then StationLive.fresh (s.slot n).enrolled else v
  { s with stations := s.stations.mapNumbered one }

/-- LOOP_RESTART of one loop (R39). -/
def State.restartLoop (s : State) (loop : Loop) : State :=
  let t := (s.freshStations (fun l => l == loop)).setLoop loop LoopState.fresh
  { t with queue := s.queue.filter (fun e => e.loop != loop) }.release (Hold.isMomentaryOn loop)

/-- The loop a parameter names: 0 for A and 1 for B (R39). -/
def loopParameter (l : Byte) : Option Loop :=
  if l.toNat = 0 then some .a else if l.toNat = 1 then some .b else none

/-- LOOP_RESTART (R39). -/
def execLoopRestart (loop : Byte) (s : State) : Host.Outcome State Fault Refusal :=
  hostCommand s fun s =>
    match loopParameter loop with
    | none => .refuse s 0x0A .badParameter .none
    | some l => .ok (s.recomputeImages (s.restartLoop l)) []

end Sys2Proof.Machine
end

