-- ==== Sys2Proof/Machine/Resolver.lean ====
section
/-! DEFINITION. The binding resolver (chapter 3): the checks on a PRESS edge, refusals, the action of each kind, and
RELEASE edges. -/
namespace Sys2Proof.Machine

/-! ## Checks (3.2) -/

/-- A refusal with the binding index it records: present from check 4 on (R52, R53). -/
structure Refused where
  code : PressRefusal
  index : Option Nat
  deriving DecidableEq, Repr

/-- Checks 1 to 4 (R44): the binding index an entry reaches, or the refusal. -/
def State.findBinding (s : State) (e : PressEntry) : Except Refused Nat :=
  let slot := s.slot e.station
  if slot.enrolled = false then .error ⟨.stationUnenrolled, none⟩
  else if slot.count ≤ e.control then .error ⟨.controlBeyondCount, none⟩
  else if 1023 < slot.base + e.control then .error ⟨.bindingBeyondTable, none⟩
  else if (s.binding (slot.base + e.control)).present = false then
    .error ⟨.bindingAbsent, some (slot.base + e.control)⟩
  else .ok (slot.base + e.control)

/-- The zone of a press: the preset's own for a preset target, otherwise the binding's (R46). -/
def State.pressZone (s : State) (b : Binding) : Nat :=
  match b.target with
  | .preset p => (s.preset p).zone
  | _ => b.zone

/-- The fade of a press: the preset's own for a preset target, otherwise the binding's (R54). -/
def State.pressFade (s : State) (b : Binding) : Nat :=
  match b.target with
  | .preset p => (s.preset p).fade
  | _ => b.fade

/-- Check 6 fails: the zone is CLOSED, or its minimum is above the station's authority (R46). -/
def State.zoneLocks (s : State) (zone authority : Nat) : Bool :=
  match s.zoneMinimum zone with
  | .closed => true
  | .atLeast a => decide (authority < a.val)

/-- A live hold of the originator stands on a target circuit: a TOGGLE then switches off (R59). A preset's own zone has no part in
it: R125 names the TOGGLE test among its uses and R59 gives it no zone, which the model follows (log 21). -/
def State.anyLiveOn (s : State) (o : Originator) (targets : List (Nat × Nat)) : Bool :=
  s.holds.any (fun h => h.isLive && h.isOn o targets)

/-- The kind with the decision of a TOGGLE taken: the action creates holds (check 10, R43). -/
def placesHolds (kind : BindingKind) (switchesOff : Bool) : Bool :=
  match kind with
  | .latchOn => true
  | .toggle => !switchesOff
  | .holdToRun => true
  | .raise => true
  | .lower => true
  | _ => false

/-- A recall of a preset: a LATCH_ON or a TOGGLE that switches on, with a preset target (check 9, R50). -/
def recalledPreset (b : Binding) (switchesOff : Bool) : Option Nat :=
  match b.target with
  | .preset p =>
    match b.kind with
    | .latchOn => some p
    | .toggle => if switchesOff then none else some p
    | _ => none
  | _ => none

/-- Check 8's code when the target has no circuit in service (R49). -/
def noCircuitCode : Target → PressRefusal
  | .circuit _ => .circuitRetired
  | _ => .noTarget

/-- A kind with a target (check 8, R43). -/
def BindingKind.hasTarget : BindingKind → Bool
  | .stationClear => false
  | .panic => false
  | _ => true

/-- Checks 8 to 10 on the target circuits (R49 to R51). -/
def State.checkTargets (s : State) (b : Binding) (o : Originator) (targets : List (Nat × Nat)) : Option PressRefusal :=
  let off := s.anyLiveOn o targets
  if b.kind.hasTarget = false then none
  else if targets.isEmpty then some (noCircuitCode b.target)
  else if (recalledPreset b off).any s.presetBusy then some .presetBusy
  else if placesHolds b.kind off = true ∧ freeRecords s.holds < lacking s.holds o targets then some .poolFull
  else none

/-- The checks on a PRESS edge in the order of 3.2's table; the first that fails gives its code (R43). -/
def State.checkPress (s : State) (e : PressEntry) : Except Refused Nat :=
  match s.findBinding e with
  | .error r => .error r
  | .ok i =>
    let b := s.binding i
    let authority := (s.slot e.station).authority
    if authority < b.authority then .error ⟨.authorityLow, some i⟩
    else if s.zoneLocks (s.pressZone b) authority then .error ⟨.zoneLocked, some i⟩
    else if b.kind = .holdToRun ∧ (s.live e.station).presence ≠ .online then .error ⟨.stationSilent, some i⟩
    else match s.checkTargets b (b.originator i) (s.targets b.target b.level) with
      | some code => .error ⟨code, some i⟩
      | none => .ok i

/-! ## Refusals (3.5) -/

/-- A refused PRESS (R52, R53): the refusal record, a PRESS event, and a deny mark of the pressing station. -/
def State.refusePress (s : State) (e : PressEntry) (r : Refused) : State :=
  let v := s.live e.station
  let t := (s.latchPress r.code).setLive e.station { v with deny := v.deny ||| controlMask e.control }
  { t with refusal := { valid := true, station := e.station, control := e.control, binding := r.index, code := r.code,
                        earlierUnread := s.refusal.valid } }

/-! ## Actions by kind (3.7) -/

/-- What a press hands over for a placement or a ramp start (R54). -/
def State.pressPlacement (s : State) (e : PressEntry) (i : Nat) (b : Binding) (kind : HoldKind) : Placement :=
  { originator := b.originator i, fade := s.pressFade b, priority := b.priority, zone := some (s.pressZone b), kind := kind,
    lastStation := some e.station, expiry := b.expiry, parked := s.parks (some (s.pressZone b)) }

/-- The switching-off of a TOGGLE on one target circuit (R60): a live hold of the originator in expiry warning is
renewed, any other live one is released. -/
def toggleOffOn (rq : Placement) (rule : MergeRule) (pool : List Hold) (x : Nat × Nat) : List Hold :=
  if pool.any (fun h => h.isOf x.1 rq.originator && h.isLive && h.inWarning) then
    touchOn rq rule (fun h => h.placed rq x.2) pool x.1
  else releaseWhere (Hold.isOf x.1 rq.originator) pool

/-- A TOGGLE that switches off, target circuit by target circuit (R60). -/
def State.toggleOff (s : State) (rq : Placement) (targets : List (Nat × Nat)) : State :=
  s.setHolds (targets.foldl (fun pool x => toggleOffOn rq (s.attrs x.1).mergeRule pool x) s.holds)

/-- The action of an accepted PRESS (R56 to R64). -/
def State.performPress (s : State) (e : PressEntry) (i : Nat) : State :=
  let b := s.binding i
  let o := b.originator i
  let targets := s.targets b.target b.level
  match b.kind with
  | .latchOn => s.place (s.pressPlacement e i b .latch) targets
  | .latchOff => s.release (Hold.isOn o targets)
  | .toggle =>
    if s.anyLiveOn o targets then s.toggleOff (s.pressPlacement e i b .latch) targets
    else s.place (s.pressPlacement e i b .latch) targets
  | .holdToRun => s.place (s.pressPlacement e i b .momentary) targets
  | .raise => s.startRamps (s.pressPlacement e i b .latch) .up targets
  | .lower => s.startRamps (s.pressPlacement e i b .latch) .down targets
  | .stationClear => s.release (fun h => h.lastStation == some e.station)
  | .panic => s.enterPanic .panicBinding

/-- The resolution of a PRESS entry (R41, R43). -/
def State.resolvePress (s : State) (e : PressEntry) : State :=
  match s.checkPress e with
  | .error r => s.refusePress e r
  | .ok i => s.performPress e i

/-! ## RELEASE edges (3.8) -/

/-- The momentary holds of an originator on the target circuits (R66). -/
def Hold.isMomentaryTarget (o : Originator) (targets : List (Nat × Nat)) (h : Hold) : Bool :=
  h.kind == .momentary && h.isOn o targets

/-- The action of a RELEASE edge that passed checks 1 to 4 (R65 to R67). -/
def State.performRelease (s : State) (i : Nat) : State :=
  let b := s.binding i
  let o := b.originator i
  let targets := s.targets b.target b.level
  match b.kind with
  | .holdToRun => s.release (Hold.isMomentaryTarget o targets)
  | .raise => s.stopRamps o targets
  | .lower => s.stopRamps o targets
  | _ => s

/-- The resolution of a RELEASE entry (R65): dropped without trace when a check of 1 to 4 fails. -/
def State.resolveRelease (s : State) (e : PressEntry) : State :=
  match s.findBinding e with
  | .error _ => s
  | .ok i => s.performRelease i

/-! ## Taking an entry (3.1) -/

/-- The entry that the resolver resolves next: the current one, or the head of the queue (R38, R41). -/
def State.nextEntry (s : State) : Option PressEntry :=
  match s.current with
  | some e => some e
  | none => s.queue.head?

/-- The entry taken: it leaves the queue, and at the end of its resolution the current entry is empty (R41). -/
def State.takeEntry (s : State) : State :=
  match s.current with
  | some _ => { s with current := none }
  | none => { s with queue := s.queue.tail }

/-- The resolution of the next entry when it is of the given edge; the resolver has nothing of that edge to take
otherwise (log 8). -/
def State.resolveNext (s : State) (edge : Edge) (resolve : State → PressEntry → State) : State :=
  match s.nextEntry with
  | some e => if e.edge = edge then s.recomputeImages (resolve s.takeEntry e) else s
  | none => s

/-- PRESS_EDGE (R43). -/
def execPressEdge (s : State) : Host.Outcome State Fault Refusal :=
  whenPowered s (s.resolveNext .press State.resolvePress)

/-- RELEASE_EDGE (R65). -/
def execReleaseEdge (s : State) : Host.Outcome State Fault Refusal :=
  whenPowered s (s.resolveNext .release State.resolveRelease)

/-! ## Timers of the hold unit -/

/-- FADE_STEP (R75): one step of every unparked fade and ramp. -/
def execFadeStep (s : State) : Host.Outcome State Fault Refusal :=
  whenPowered s
    (s.recomputeImages
      { s with holds := s.holds.filterMap Hold.stepped,
               timers := { s.timers with fadeStep := s.timers.fadeStep + Config.fadeTicks } })

/-- MINUTE_TIMER (R83): one minute of every unparked hold with an expiry remaining. -/
def execMinuteTimer (s : State) : Host.Outcome State Fault Refusal :=
  whenPowered s
    (s.recomputeImages
      { s with holds := s.holds.filterMap Hold.minuted,
               timers := { s.timers with minute := s.timers.minute + Config.minuteTicks } })

end Sys2Proof.Machine
end

