-- ==== Sys2Proof/Machine/Console.lean ====
section
/-! DEFINITION. The console commands on holds (4.10, 6.4). -/
namespace Sys2Proof.Machine

/-- The target of a console command: CIRCUIT or GROUP within range (R91). -/
def consoleTarget (kind number : Nat) : Option Target :=
  match kind with
  | 1 => if number < Config.circuits then some (.circuit number) else none
  | 2 => if number < Config.groups then some (.group number) else none
  | _ => none

/-- The sense reference of PLACE_HOLD and RELEASE_HOLD: CIRCUIT or GROUP with the number as given, NONE for another
kind (R91). -/
def consoleRef (kind number : Nat) : SenseRef :=
  match kind with
  | 1 => .circuit number
  | 2 => .group number
  | _ => .none

/-- PLACE_HOLD (R91). -/
def execPlaceHold (channel targetKind : Byte) (number level fade : Half) (priority : Byte) (s : State) :
    Host.Outcome State Fault Refusal :=
  hostCommand s fun s =>
    let ref := consoleRef targetKind.toNat number.toNat
    let o := Originator.console channel.toNat
    match consoleTarget targetKind.toNat number.toNat with
    | none => .refuse s 0x28 .badParameter ref
    | some target =>
      let targets := s.targets target level.toNat
      if 7 < channel.toNat ∨ 1000 < level.toNat ∨ 600 < fade.toNat ∨ priority.toNat = 0 ∨ 7 < priority.toNat then
        .refuse s 0x28 .badParameter ref
      else if targets.isEmpty then
        .refuse s 0x28 (if targetKind.toNat = 1 then .circuitRetired else .noTarget) ref
      else if freeRecords s.holds < lacking s.holds o targets then .refuse s 0x28 .poolFull ref
      else .ok (s.recomputeImages (s.place (s.consolePlacement o fade.toNat priority.toNat none) targets))
        [(6, lacking s.holds o targets), (6, targets.length - lacking s.holds o targets)]

/-- RELEASE_HOLD (R92): retired members are kept among the target circuits. -/
def execReleaseHold (channel targetKind : Byte) (number : Half) (s : State) : Host.Outcome State Fault Refusal :=
  hostCommand s fun s =>
    let ref := consoleRef targetKind.toNat number.toNat
    match consoleTarget targetKind.toNat number.toNat with
    | none => .refuse s 0x29 .badParameter ref
    | some target =>
      if 7 < channel.toNat then .refuse s 0x29 .badParameter ref
      else
        let p := Hold.isOn (.console channel.toNat) (s.mappedTargets target 0)
        .ok (s.recomputeImages (s.release p)) [(6, countReleased p s.holds)]

/-- RECALL_PRESET (R131). -/
def execRecallPreset (preset priority : Byte) (s : State) : Host.Outcome State Fault Refusal :=
  hostCommand s fun s =>
    let p := preset.toNat
    let o := Originator.preset p
    let targets := s.targets (.preset p) 0
    if 47 < p ∨ priority.toNat = 0 ∨ 7 < priority.toNat then .refuse s 0x2A .badParameter (.preset p)
    else if targets.isEmpty then .refuse s 0x2A .noTarget (.preset p)
    else if s.presetBusy p then .refuse s 0x2A .presetBusy (.preset p)
    else if freeRecords s.holds < lacking s.holds o targets then .refuse s 0x2A .poolFull (.preset p)
    else
      .ok (s.recomputeImages
          (s.place (s.consolePlacement o (s.preset p).fade priority.toNat (some (s.preset p).zone)) targets))
        [(7, lacking s.holds o targets), (7, targets.length - lacking s.holds o targets)]

/-- Every live hold of an originator released, the number of them reported (R93, R132). -/
def releaseOriginator (s : State) (o : Originator) : Reply :=
  .ok (s.recomputeImages (s.release (fun h => h.originator == o)))
    [(10, countReleased (fun h => h.originator == o) s.holds)]

/-- RELEASE_PRESET (R132). -/
def execReleasePreset (preset : Byte) (s : State) : Host.Outcome State Fault Refusal :=
  hostCommand s fun s =>
    if 47 < preset.toNat then .refuse s 0x2B .badParameter (.preset preset.toNat)
    else releaseOriginator s (.preset preset.toNat)

/-- RELEASE_OWNER (R93). -/
def execReleaseOwner (index : Half) (s : State) : Host.Outcome State Fault Refusal :=
  hostCommand s fun s =>
    if 1023 < index.toNat then .refuse s 0x2C .badParameter (.binding index.toNat)
    else releaseOriginator s (.binding index.toNat)

end Sys2Proof.Machine
end

