-- ==== Sys2Proof/Machine/Lists.lean ====
section
/-! DEFINITION. The commands on group and preset lists (6.1, 6.2). -/
namespace Sys2Proof.Machine

/-- The position of the first item of a list that satisfies `p`. -/
def positionOf {α : Type} (p : α → Bool) : List α → Option Nat
  | [] => none
  | x :: xs => if p x then some 0 else (positionOf p xs).map (fun k => k + 1)

/-- An accepted list edit: images recomputed (R35), an ABORTED continuation discarded (R176). -/
def editedList (s t : State) (fields : List (Nat × Nat)) : Reply := .ok (s.recomputeImages t.discardContinuation) fields

/-! ## Groups -/

/-- GROUP_ADD (R119). -/
def execGroupAdd (group : Byte) (circuit : Half) (s : State) : Host.Outcome State Fault Refusal :=
  hostCommand s fun s =>
    let g := group.toNat
    let c := circuit.toNat
    if s.sweeper.active then .refuse s 0x20 .sweepActive (.group g)
    else if 63 < g ∨ 383 < c then .refuse s 0x20 .badParameter (.group g)
    else if (s.group g).contains c then .refuse s 0x20 .duplicate (.group g)
    else if Config.groupSize ≤ (s.group g).length then .refuse s 0x20 .collectionFull (.group g)
    else editedList s (s.setGroup g (s.group g ++ [c])) [(6, g), (5, (s.group g).length), (6, (s.group g).length + 1)]

/-- GROUP_REMOVE (R120). -/
def execGroupRemove (group : Byte) (circuit : Half) (s : State) : Host.Outcome State Fault Refusal :=
  hostCommand s fun s =>
    let g := group.toNat
    let c := circuit.toNat
    if s.sweeper.active then .refuse s 0x21 .sweepActive (.group g)
    else if 63 < g ∨ 383 < c then .refuse s 0x21 .badParameter (.group g)
    else match positionOf (fun x => x == c) (s.group g) with
      | none => .refuse s 0x21 .notFound (.group g)
      | some k => editedList s (s.setGroup g ((s.group g).eraseIdx k)) [(6, g), (5, k), (6, (s.group g).length - 1)]

/-- GROUP_READ (R121). -/
def execGroupRead (group position : Byte) (s : State) : Host.Outcome State Fault Refusal :=
  hostCommand s fun s =>
    let g := group.toNat
    if 63 < g ∨ 31 < position.toNat then .refuse s 0x22 .badParameter (.group g)
    else match (s.group g)[position.toNat]? with
      | some c => .ok s [(6, (s.group g).length), (9, c), yesNo (s.attrs c).retired]
      | none => .refuse s 0x22 .notFound (.group g) [(6, (s.group g).length)]

/-! ## Presets -/

/-- The bit that says whether an entry was new (R123); FREE VALUE in which bit it is (log 6). -/
def newEntryMark (new : Bool) : Nat × Nat := yesNo (new == Config.newEntryBit)

/-- PRESET_SET_ENTRY (R123). -/
def execPresetSetEntry (preset : Byte) (circuit level : Half) (s : State) : Host.Outcome State Fault Refusal :=
  hostCommand s fun s =>
    let p := preset.toNat
    let c := circuit.toNat
    let v := s.preset p
    if s.sweeper.active then .refuse s 0x23 .sweepActive (.preset p)
    else if 47 < p ∨ 383 < c ∨ 1000 < level.toNat then .refuse s 0x23 .badParameter (.preset p)
    else match positionOf (fun x => x.1 == c) v.entries with
      | some k =>
        editedList s (s.setPreset p { v with entries := v.entries.set k (c, level.toNat) })
          [(6, p), (6, k), (7, v.entries.length), newEntryMark false]
      | none =>
        if Config.presetSize ≤ v.entries.length then .refuse s 0x23 .collectionFull (.preset p)
        else editedList s (s.setPreset p { v with entries := v.entries ++ [(c, level.toNat)] })
          [(6, p), (6, v.entries.length), (7, v.entries.length + 1), newEntryMark true]

/-- PRESET_REMOVE_ENTRY (R124). -/
def execPresetRemoveEntry (preset : Byte) (circuit : Half) (s : State) : Host.Outcome State Fault Refusal :=
  hostCommand s fun s =>
    let p := preset.toNat
    let c := circuit.toNat
    let v := s.preset p
    if s.sweeper.active then .refuse s 0x24 .sweepActive (.preset p)
    else if 47 < p ∨ 383 < c then .refuse s 0x24 .badParameter (.preset p)
    else match positionOf (fun x => x.1 == c) v.entries with
      | none => .refuse s 0x24 .notFound (.preset p)
      | some k =>
        editedList s (s.setPreset p { v with entries := v.entries.eraseIdx k }) [(6, p), (6, k), (7, v.entries.length - 1)]

/-- PRESET_SET_ATTR (R125). -/
def execPresetSetAttr (preset : Byte) (fade : Half) (zone : Byte) (s : State) : Host.Outcome State Fault Refusal :=
  hostCommand s fun s =>
    let p := preset.toNat
    let v := s.preset p
    if s.sweeper.active then .refuse s 0x25 .sweepActive (.preset p)
    else if 47 < p ∨ 600 < fade.toNat ∨ 15 < zone.toNat then .refuse s 0x25 .badParameter (.preset p)
    else editedList s (s.setPreset p { v with fade := fade.toNat, zone := zone.toNat }) [(6, p), (10, v.fade), (4, v.zone)]

/-- PRESET_READ (R126): length, fade, zone and busy always, and the entry at the position where there is one. -/
def execPresetRead (preset position : Byte) (s : State) : Host.Outcome State Fault Refusal :=
  hostCommand s fun s =>
    let p := preset.toNat
    let v := s.preset p
    let always := [(7, v.entries.length), (10, v.fade), (4, v.zone), yesNo (s.presetBusy p)]
    if 47 < p ∨ 63 < position.toNat then .refuse s 0x26 .badParameter (.preset p)
    else match v.entries[position.toNat]? with
      | some x => .ok s (always ++ [(9, x.1), (10, x.2), yesNo (s.attrs x.1).retired])
      | none => .refuse s 0x26 .notFound (.preset p) always

end Sys2Proof.Machine
end

