-- ==== Sys2Proof/Machine/Port.lean ====
section
/-! DEFINITION. The command port (chapter 10): frames, identity, the reporting records, RESTART. -/
namespace Sys2Proof.Machine

/-! ## Frames (10.1) -/

/-- BAD_FRAME (R178, R179): ignored but for the FRAME_BAD flag, which its end sets. -/
def execBadFrame (edges : Nat) (s : State) : Host.Outcome State Fault Refusal :=
  if edges = 8 ∨ edges = 96 then .refused .illFormed
  else
    let t := s.shiftFrame edges
    whenPowered s { t with port := { t.port with frameBad := true } }

/-- STATUS_ONLY_FRAME (R178): the status byte is shifted out, and no state changes but FRAME_BAD. -/
def execStatusOnlyFrame (s : State) : Host.Outcome State Fault Refusal := whenPowered s (s.shiftFrame 8)

/-- BAD_COMMAND (R181). -/
def execBadCommand (code : Byte) (s : State) : Host.Outcome State Fault Refusal :=
  if commandCodes.contains code then .refused .illFormed
  else hostCommand s fun s => .refuse s code .badCommand .none

/-- NOP (R181). -/
def execNop (s : State) : Host.Outcome State Fault Refusal := hostCommand s fun s => .ok s []

/-- The ten data bytes of IDENTIFY (R190). -/
def identityBytes : List Byte := [0x54, 0x38, 0x01, 0x80, 0x01, 0x00, 0x04, 0x00, 0x02, 0x7E]

/-- IDENTIFY (R190). -/
def execIdentify (s : State) : Host.Outcome State Fault Refusal :=
  hostCommand s fun s => .ok s (identityBytes.map (fun b => (8, b.toNat)))

/-! ## Reporting records (10.4, 10.5) -/

/-- READ_SENSE (R185). -/
def execReadSense (s : State) : Host.Outcome State Fault Refusal :=
  hostCommand s fun s =>
    let r := s.sense
    .ok { s with sense := .cleared }
      [yesNo r.valid, (8, r.command.toNat), (4, r.result.code), (3, r.ref.kindCode), (12, r.ref.value), yesNo r.refValid,
       yesNo r.earlierUnread]

/-- READ_REFUSAL (R186). -/
def execReadRefusal (s : State) : Host.Outcome State Fault Refusal :=
  hostCommand s fun s =>
    let r := s.refusal
    .ok { s with refusal := .cleared }
      [yesNo r.valid, (7, r.station), (4, r.control), optional 10 r.binding, (4, r.code.code), yesNo r.earlierUnread]

/-- READ_EVENTS (R189): every flag and detail returned, every flag cleared, the details kept. -/
def execReadEvents (s : State) : Host.Outcome State Fault Refusal :=
  hostCommand s fun s =>
    .ok { s with events := { s.events with flags := EventGroups.all false } }
      (s.events.flags.fields ++ s.events.details.fields)

/-- EVENT_MASK (R188). -/
def execEventMask (station press circuit rack mode sweep store : Byte) (s : State) : Host.Outcome State Fault Refusal :=
  hostCommand s fun s =>
    .ok { s with mask := { station := readYes station, press := readYes press, circuit := readYes circuit,
                           rack := readYes rack, mode := readYes mode, sweep := readYes sweep, store := readYes store } }
      s.mask.fields

/-! ## RESTART (R191) -/

/-- The mode RESTART chooses (R156). -/
def State.restartMode (s : State) : Mode := if s.panicLatch then .panic else .openHouse

/-- The sweeper after RESTART (R177): a sweep in flight becomes ABORTED, anything else is kept. -/
def Sweeper.restarted (w : Sweeper) : Sweeper :=
  match w.state with
  | .sweeping job => { w with state := .aborted job }
  | _ => w

/-- The sense record after RESTART (R191): cleared, and written with the position of a sweep that it aborted. -/
def Sweeper.restartSense (w : Sweeper) : SenseRecord :=
  match w.state with
  | .sweeping job =>
    { valid := true, command := 0x44, result := .ok, ref := .sweepPosition job.position, refValid := true,
      earlierUnread := false }
  | _ => SenseRecord.cleared

/-- What RESTART leaves (R191): the configuration, the store, the panic input latch, the event mask and the
continuation kept; every other live part as its block's rule states, and one MODE event. -/
def State.restarted (s : State) : State :=
  ({ s with
      timers := Timers.started s.clock
      stations := Table.tabulate 128 (fun n => StationLive.fresh (s.slot n).enrolled)
      loopA := LoopState.fresh
      loopB := LoopState.fresh
      queue := []
      current := none
      holds := []
      circuits := Table.fill 384 CircuitLive.clear
      mode := s.restartMode
      lock := .free
      racks := Table.fill 4 Rack.fresh
      rackInFlight := none
      sweeper := s.sweeper.restarted
      sense := s.sweeper.restartSense
      refusal := RefusalRecord.cleared
      events := Events.cleared }.latchMode s.restartMode .restart)

/-- RESTART (R191). -/
def execRestart (s : State) : Host.Outcome State Fault Refusal :=
  hostCommand s fun s => .ok s.restarted [(3, s.restartMode.code), yesNo s.sweeper.active]

end Sys2Proof.Machine
end

