-- ==== Sys2Proof/Machine/Circuits.lean ====
section
/-! DEFINITION. The commands on circuit records (5.2) and LIST_HOLDS (R94). -/
namespace Sys2Proof.Machine

/-- A retirement (R104): retired yes, every hold of the circuit removed, a CIRCUIT event, in one action. -/
def State.retire (s : State) (c : Nat) : State :=
  ((s.setAttrs c { s.attrs c with retired := true }).removeHoldsOn c).latchCircuit c

/-- WRITE_CIRCUIT (R100, R101). -/
def execWriteCircuit (circuit : Half) (egress : Byte) (floor : Half) (house panicParticipant curve mergeRule : Byte)
    (s : State) : Host.Outcome State Fault Refusal :=
  hostCommand s fun s =>
    let c := circuit.toNat
    let ref := SenseRef.circuit c
    if s.sweeper.active then .refuse s 0x18 .sweepActive ref
    else if 383 < c ∨ 1000 < floor.toNat then .refuse s 0x18 .badParameter ref
    else match curveOf curve.toNat, mergeRuleOf mergeRule.toNat with
      | some k, some m =>
        if readYes egress = true ∧ (s.attrs c).retired = true then .refuse s 0x18 .egressProtected ref
        else
          let participant := readYes egress || readYes panicParticipant
          let a : CircuitAttrs :=
            { egress := readYes egress, floor := floor.toNat, house := readYes house, panicParticipant := participant,
              curve := k, mergeRule := m, retired := (s.attrs c).retired }
          .ok (s.recomputeImages (s.setAttrs c a).discardContinuation) [(9, c), yesNo participant]
      | _, _ => .refuse s 0x18 .badParameter ref

/-- READ_CIRCUIT (R102): the circuit's own record and list, without the MOVING mapping. -/
def execReadCircuit (circuit : Half) (s : State) : Host.Outcome State Fault Refusal :=
  hostCommand s fun s =>
    let c := circuit.toNat
    if 383 < c then .refuse s 0x19 .badParameter (.circuit c)
    else
      let a := s.attrs c
      .ok s [yesNo a.egress, (10, a.floor), yesNo a.house, yesNo a.panicParticipant, (2, a.curve.code),
        (1, a.mergeRule.code), yesNo a.retired, (10, s.outputLevel c), (8, s.rackCode c), (3, (s.circuit c).faultCount),
        (10, (contributions s.holds c).length), optional 9 (s.circuit c).moving]

/-- RETIRE_CIRCUIT (R103). On a circuit already retired it "changes nothing" (R103), yet as an accepted edit of R174's list it
discards an ABORTED continuation (R176): that R176 prevails there is the model's choice (log 20). -/
def execRetireCircuit (circuit : Half) (s : State) : Host.Outcome State Fault Refusal :=
  hostCommand s fun s =>
    let c := circuit.toNat
    let ref := SenseRef.circuit c
    if s.sweeper.active then .refuse s 0x1A .sweepActive ref
    else if 383 < c then .refuse s 0x1A .badParameter ref
    else if (s.attrs c).egress then .refuse s 0x1A .egressProtected ref
    else if (s.attrs c).retired then .ok s.discardContinuation [(9, c), (10, 0), yesNo true]
    else .ok (s.recomputeImages (s.retire c).discardContinuation)
      [(9, c), (10, (contributions s.holds c).length), yesNo false]

/-- RESTORE_CIRCUIT (R105). -/
def execRestoreCircuit (circuit : Half) (s : State) : Host.Outcome State Fault Refusal :=
  hostCommand s fun s =>
    let c := circuit.toNat
    let ref := SenseRef.circuit c
    if s.sweeper.active then .refuse s 0x1B .sweepActive ref
    else if 383 < c then .refuse s 0x1B .badParameter ref
    else
      let restored := (s.setAttrs c { s.attrs c with retired := false }).setCircuit c
        { s.circuit c with faultCount := 0, reported := false }
      .ok (s.recomputeImages restored.discardContinuation)
        [(9, c), yesNo (s.attrs c).retired, (3, (s.circuit c).faultCount)]

/-- The result fields of a hold in LIST_HOLDS, after the list length (R94, R183): 70 bits. -/
def Hold.fields (h : Hold) : List (Nat × Nat) :=
  [(9, h.slot), (12, h.originator.code), optional 4 h.zone, (1, h.kind.code), (3, h.priority), (2, h.state.code),
   yesNo h.parked, (10, h.level), (10, h.target), optional 8 h.expiry, optional 7 h.lastStation]

/-- LIST_HOLDS (R94). -/
def execListHolds (circuit position : Half) (s : State) : Host.Outcome State Fault Refusal :=
  hostCommand s fun s =>
    let c := circuit.toNat
    if 383 < c ∨ 511 < position.toNat then .refuse s 0x1C .badParameter (.circuit c)
    else
      let list := contributions s.holds c
      match list[position.toNat]? with
      | some h => .ok s ((10, list.length) :: h.fields)
      | none => .refuse s 0x1C .notFound (.circuit c) [(10, list.length)]

end Sys2Proof.Machine
end

