-- ==== Sys2Proof/Machine/Racks.lean ====
section
/-! DEFINITION. The rack link (chapter 8): LEVELS frames, replies and misses, fault counting and its decay. -/
namespace Sys2Proof.Machine

/-- The codes of a rack's 96 circuits in slot order, all evaluated from the state as it stands (R158). -/
def State.rackCodes (s : State) (r : Nat) : Table Nat 96 := Table.tabulate 96 (fun k => s.rackCode (96 * r + k))

/-- The bytes of a LEVELS frame (8.2). -/
def levelsBytes (r : Nat) (codes : Table Nat 96) : List Byte :=
  let body := BitVec.ofNat 8 (r + 80) :: codes.cells.map (BitVec.ofNat 8)
  body ++ rackCheck body

/-- REFRESH_TIMER (R157, R158): the frame is built and sent, its codes kept as last-sent codes, and the rack's
transaction is in flight. -/
def execRefreshTimer (rack : BitVec 2) (s : State) : Host.Outcome State Fault Refusal :=
  let r := rack.toNat
  whenPowered s
    { s.setRack r { s.rack r with lastSent := s.rackCodes r } with
      rackInFlight := some r
      timers := { s.timers with refresh := s.timers.refresh.set r (s.timers.refresh.get 0 r + Config.refreshTicks) } }

/-! ## Replies and misses (R160 to R162) -/

/-- The state of a rack after a valid reply (R161): a RACK event when it was not ONLINE. -/
def State.rackReplied (s : State) (r : Nat) : State :=
  let t := s.setRack r { s.rack r with state := .online, missCount := 0 }
  if (s.rack r).state = .online then t else t.latchRack r .online

/-- A miss for a rack (R162): the eighth in a row makes it LOST, with a RACK event. -/
def State.rackMissed (s : State) (r : Nat) : State :=
  let v := s.rack r
  if v.state = .lost then s.setRack r { v with missCount := min 8 (v.missCount + 1) }
  else if 7 ≤ v.missCount then (s.setRack r { v with state := .lost, missCount := 8 }).latchRack r .lost
  else s.setRack r { v with missCount := v.missCount + 1 }

/-! ## Fault counting (8.4) -/

/-- One counted fault of a circuit (R163 to R165): the count raised, up to 7, and the mark set; a non-egress circuit
at 7 is retired, an egress circuit rising from 6 to 7 is reported. -/
def State.countFault (s : State) (c : Nat) : State :=
  let v := s.circuit c
  let a := s.attrs c
  let t := s.setCircuit c { v with faultCount := min 7 (v.faultCount + 1), reported := true }
  if a.egress then (if v.faultCount = 6 then t.latchCircuit c else t)
  else if a.retired = false ∧ 6 ≤ v.faultCount then t.retire c
  else t

/-- One fault entry of rack `r`'s reply, with the slots counted so far (R163): ignored for a code of 0 in the frame it
answers, and for a slot already counted. -/
def countEntry (codes : Table Nat 96) (r : Nat) (acc : State × List Nat) (e : FaultEntry) : State × List Nat :=
  let slot := e.slot.toNat
  if codes.get 0 slot = 0 ∨ slot ∈ acc.2 then acc else (acc.1.countFault (96 * r + slot), slot :: acc.2)

/-- The fault entries of a reply, in its order (R163). -/
def State.countFaults (s : State) (r : Nat) (entries : List FaultEntry) : State :=
  (entries.foldl (countEntry (s.rack r).lastSent r) (s, [])).1

/-- The end of the transaction in flight: a valid reply of its rack, or a miss (R160). -/
def State.endTransaction (s : State) (reply : Option (Nat × List FaultEntry)) : State :=
  match s.rackInFlight with
  | none => s
  | some r =>
    let t := { s with rackInFlight := none }
    match reply with
    | some (rack, entries) =>
      if rack = r ∧ faultsFit entries = true then (t.rackReplied r).countFaults r entries else t.rackMissed r
    | none => t.rackMissed r

/-- STATUS_REPLY (R160 to R165): with no transaction in flight it is ignored; one not of the rack the frame was sent to,
or not valid, is a miss. -/
def execStatusReply (rack : BitVec 2) (entries : List FaultEntry) (s : State) : Host.Outcome State Fault Refusal :=
  whenPowered s (s.recomputeImages (s.endTransaction (some (rack.toNat, entries))))

/-- RACK_MISS (R160, R162). -/
def execRackMiss (s : State) : Host.Outcome State Fault Refusal := whenPowered s (s.endTransaction none)

/-- The minute decay of one circuit (R166). -/
def CircuitLive.decayed (v : CircuitLive) : CircuitLive :=
  { v with faultCount := if v.reported then v.faultCount else v.faultCount - 1, reported := false }

/-- FAULT_MINUTE_TIMER (R166). -/
def execFaultMinuteTimer (s : State) : Host.Outcome State Fault Refusal :=
  whenPowered s
    { s with circuits := s.circuits.map CircuitLive.decayed,
             timers := { s.timers with faultMinute := s.timers.faultMinute + Config.minuteTicks } }

end Sys2Proof.Machine
end

