-- ==== Sys2Proof/Machine/Store.lean ====
section
/-! DEFINITION. The configuration store, loss of power and start-up (chapter 11). -/
namespace Sys2Proof.Machine

/-- SAVE (R193). -/
def execSave (s : State) : Host.Outcome State Fault Refusal :=
  hostCommand s fun s =>
    if s.store.busy then .refuse s 0x3A .storeBusy .none
    else .ok { s with store := .writing s.config s.clock } [(2, s.store.code)]

/-- SAVE_COMPLETION (R194): taken while a write is in progress. -/
def execSaveCompletion (s : State) : Host.Outcome State Fault Refusal :=
  whenPowered s
    (match s.store with
     | .writing snapshot _ => { s with store := .valid snapshot }.latchStore .saved
     | _ => s)

/-- A store whose write is interrupted is INVALID (R194). -/
def Store.interrupted : Store → Store
  | .writing _ _ => .invalid
  | .invalid => .invalid
  | .valid image => .valid image

/-- POWER_LOSS (R194): the part stops, and a write in progress stops with it. -/
def execPowerLoss (s : State) : Host.Outcome State Fault Refusal :=
  .next { s with powered := false, store := s.store.interrupted }

/-- What a start-up loads (R195): the image of a VALID store, otherwise the defaults. -/
def Store.loaded : Store → Configuration
  | .valid image => image
  | .invalid => Configuration.default
  | .writing _ _ => Configuration.default

/-- The mode at start-up (R156, R195). -/
def Store.startMode (store : Store) (panicInput : Bool) : Mode :=
  match store with
  | .valid _ => if panicInput then .panic else .openHouse
  | _ => .panic

/-- The outcome of the STORE event of a start-up (R195). -/
def Store.startOutcome : Store → StoreOutcome
  | .valid _ => .loaded
  | _ => .invalid

/-- A start-up from a store that no write is in progress on (R195): live state empty, the panic input latched, the
configuration loaded, the mode chosen, the STORE event latched. -/
def State.startedFrom (s : State) (store : Store) (panicInput : Bool) : State :=
  { State.reset with
    config := store.loaded
    store := store
    stations := Table.tabulate 128 (fun n => StationLive.fresh (store.loaded.stations.get StationConfig.default n).enrolled)
    mode := store.startMode panicInput
    panicLatch := panicInput
    events := { flags := { EventGroups.all false with store := true },
                details := { EventDetails.zero with storeOutcome := store.startOutcome } }
    pending := s.pending }

/-- START_UP (R195): power-up or the reset pin, which ends a write in progress as a power loss does (R194). -/
def execStartUp (panicInput : Bool) (s : State) : Host.Outcome State Fault Refusal :=
  .next (s.startedFrom s.store.interrupted panicInput)

end Sys2Proof.Machine
end

