-- ==== Sys2Proof/Machine/Dispatch.lean ====
section
/-! DEFINITION. `exec`: one arm per command, each a direct call of its meaning. -/
namespace Sys2Proof.Machine

/-- The command's effect on everything but the queue of waiting commands. -/
def exec (i : Instr) (s : State) : Host.Outcome State Fault Refusal :=
  match i with
  | .startUp panicInput => Sys2Proof.Machine.execStartUp panicInput s
  | .powerLoss => Sys2Proof.Machine.execPowerLoss s
  | .badFrame edges => Sys2Proof.Machine.execBadFrame edges s
  | .statusOnlyFrame => Sys2Proof.Machine.execStatusOnlyFrame s
  | .badCommand code => Sys2Proof.Machine.execBadCommand code s
  | .nop => Sys2Proof.Machine.execNop s
  | .identify => Sys2Proof.Machine.execIdentify s
  | .writeStation station enrolled base count authority => Sys2Proof.Machine.execWriteStation station enrolled base count authority s
  | .readStation station => Sys2Proof.Machine.execReadStation station s
  | .loopRestart loop => Sys2Proof.Machine.execLoopRestart loop s
  | .writeBinding index record => Sys2Proof.Machine.execWriteBinding index record s
  | .readBinding index => Sys2Proof.Machine.execReadBinding index s
  | .clearBinding index => Sys2Proof.Machine.execClearBinding index s
  | .writeCircuit circuit egress floor house panicParticipant curve mergeRule => Sys2Proof.Machine.execWriteCircuit circuit egress floor house panicParticipant curve mergeRule s
  | .readCircuit circuit => Sys2Proof.Machine.execReadCircuit circuit s
  | .retireCircuit circuit => Sys2Proof.Machine.execRetireCircuit circuit s
  | .restoreCircuit circuit => Sys2Proof.Machine.execRestoreCircuit circuit s
  | .listHolds circuit position => Sys2Proof.Machine.execListHolds circuit position s
  | .groupAdd group circuit => Sys2Proof.Machine.execGroupAdd group circuit s
  | .groupRemove group circuit => Sys2Proof.Machine.execGroupRemove group circuit s
  | .groupRead group position => Sys2Proof.Machine.execGroupRead group position s
  | .presetSetEntry preset circuit level => Sys2Proof.Machine.execPresetSetEntry preset circuit level s
  | .presetRemoveEntry preset circuit => Sys2Proof.Machine.execPresetRemoveEntry preset circuit s
  | .presetSetAttr preset fade zone => Sys2Proof.Machine.execPresetSetAttr preset fade zone s
  | .presetRead preset position => Sys2Proof.Machine.execPresetRead preset position s
  | .placeHold channel targetKind number level fade priority => Sys2Proof.Machine.execPlaceHold channel targetKind number level fade priority s
  | .releaseHold channel targetKind number => Sys2Proof.Machine.execReleaseHold channel targetKind number s
  | .recallPreset preset priority => Sys2Proof.Machine.execRecallPreset preset priority s
  | .releasePreset preset => Sys2Proof.Machine.execReleasePreset preset s
  | .releaseOwner index => Sys2Proof.Machine.execReleaseOwner index s
  | .setMode mode => Sys2Proof.Machine.execSetMode mode s
  | .setZoneMinimum mode zone value => Sys2Proof.Machine.execSetZoneMinimum mode zone value s
  | .setHoldoverLevel level => Sys2Proof.Machine.execSetHoldoverLevel level s
  | .lockTake period => Sys2Proof.Machine.execLockTake period s
  | .lockRenew toggle => Sys2Proof.Machine.execLockRenew toggle s
  | .lockGive => Sys2Proof.Machine.execLockGive s
  | .panic => Sys2Proof.Machine.execPanic s
  | .clearPanic => Sys2Proof.Machine.execClearPanic s
  | .retarget oldCircuit newCircuit => Sys2Proof.Machine.execRetarget oldCircuit newCircuit s
  | .sweepAbort => Sys2Proof.Machine.execSweepAbort s
  | .save => Sys2Proof.Machine.execSave s
  | .readSense => Sys2Proof.Machine.execReadSense s
  | .readRefusal => Sys2Proof.Machine.execReadRefusal s
  | .readEvents => Sys2Proof.Machine.execReadEvents s
  | .eventMask station press circuit rack mode sweep store => Sys2Proof.Machine.execEventMask station press circuit rack mode sweep store s
  | .restart => Sys2Proof.Machine.execRestart s
  | .poll loop => Sys2Proof.Machine.execPoll loop s
  | .discoveryPoll loop => Sys2Proof.Machine.execDiscoveryPoll loop s
  | .idleReply loop address => Sys2Proof.Machine.execIdleReply loop address s
  | .keyReport loop address sequence transitions => Sys2Proof.Machine.execKeyReport loop address sequence transitions s
  | .stationMiss loop => Sys2Proof.Machine.execStationMiss loop s
  | .pressEdge => Sys2Proof.Machine.execPressEdge s
  | .releaseEdge => Sys2Proof.Machine.execReleaseEdge s
  | .fadeStep => Sys2Proof.Machine.execFadeStep s
  | .minuteTimer => Sys2Proof.Machine.execMinuteTimer s
  | .panicInputActive => Sys2Proof.Machine.execPanicInputActive s
  | .panicInputInactive => Sys2Proof.Machine.execPanicInputInactive s
  | .lockTimerExpiry => Sys2Proof.Machine.execLockTimerExpiry s
  | .refreshTimer rack => Sys2Proof.Machine.execRefreshTimer rack s
  | .statusReply rack entries => Sys2Proof.Machine.execStatusReply rack entries s
  | .rackMiss => Sys2Proof.Machine.execRackMiss s
  | .faultMinuteTimer => Sys2Proof.Machine.execFaultMinuteTimer s
  | .sweepVisit => Sys2Proof.Machine.execSweepVisit s
  | .saveCompletion => Sys2Proof.Machine.execSaveCompletion s

end Sys2Proof.Machine
end

