-- ==== Sys2Proof/Machine/Step.lean ====
section
/-! DEFINITION. One step: the command at the front of the queue is taken; on an empty queue the block idles while one
tick of its clock passes. -/
namespace Sys2Proof.Machine

/-- An idle step: 1.25 ms pass (log 3). A part without power has no clock. -/
def State.idle (s : State) : State := if s.powered then { s with clock := s.clock + 1 } else s

/-- The front command's outcome on the state with the queue's rest; idling on an empty queue. -/
def step (s : State) : Host.Outcome State Fault Refusal :=
  match s.pending with
  | [] => .next s.idle
  | i :: rest => exec i { s with pending := rest }

/-- The state with the command that a table word spells put at the front of its queue; unchanged where the word spells none. -/
def State.withFetchWord (s : State) (nbits w : Nat) : State :=
  match decodeTableWord nbits w with
  | some i => { s with pending := i :: s.pending }
  | none => s

end Sys2Proof.Machine
end

