-- ==== Sys2Proof/Safety.lean ====
section
/-! DEFINITION. The laws of the SB-384 that hold in every run: what its guide says of the whole machine. Each is a property of
one state; a step keeps it. Then, when an event of a timer comes on time. -/
namespace Sys2Proof.Machine

/-- Between steps the resolver's current entry is empty, since an entry is taken and resolved in one step (R41; log 1). -/
def State.CurrentLaw (s : State) : Prop := s.current = none

/-- The press queue holds at most 32 entries (R37). -/
def State.QueueLaw (s : State) : Prop := s.queue.length ≤ Config.queueSize

/-- While the mode is SHOW, the show lock is held (R154). -/
def State.LockLaw (s : State) : Prop := s.mode = .show → s.lock.isHeld = true

/-- While the panic input latch is active the mode is PANIC (R141). -/
def State.PanicLaw (s : State) : Prop := s.panicLatch = true → s.mode = .panic

/-- The circuit that a circuit's MOVING mark names by the sweeper's state: the new circuit on the old one, while a sweep is in
flight (R169). -/
def Sweeper.markOn (w : Sweeper) (c : Nat) : Option Nat :=
  match w.state with
  | .sweeping job => if c = job.oldCircuit then some job.newCircuit else none
  | _ => none

/-- A MOVING mark stands on a circuit exactly while a sweep is in flight, on its old circuit (R169). -/
def State.MarkLaw (s : State) : Prop := ∀ c, (s.circuit c).moving = s.sweeper.markOn c

/-- Every fault count lies within 0–7 (R167). -/
def State.FaultLaw (s : State) : Prop := ∀ c, (s.circuit c).faultCount ≤ 7

/-- The configurations that a state holds: the live one, and the store's image or snapshot. -/
def State.configurations (s : State) : List Configuration :=
  s.config :: (match s.store with
    | .valid image => [image]
    | .writing snapshot _ => [snapshot]
    | .invalid => [])

/-- In a configuration, a retired circuit is never an egress circuit (R98). -/
def Configuration.RetiredNotEgress (g : Configuration) : Prop :=
  ∀ c, (g.circuits.get CircuitAttrs.default c).retired = true → (g.circuits.get CircuitAttrs.default c).egress = false

/-- A retired circuit is never an egress circuit and holds no holds (R98). -/
def State.RetiredLaw (s : State) : Prop :=
  (∀ g ∈ s.configurations, g.RetiredNotEgress) ∧ ∀ c, (s.attrs c).retired = true → contributions s.holds c = []

/-- A hold is parked exactly when it carries a zone that is CLOSED in the current mode (R85). -/
def State.ParkedLaw (s : State) : Prop := ∀ h ∈ s.holds, h.parked = s.parks h.zone

/-- The pool keeps one hold to a slot, in slots 0–511, and no two holds share both circuit and originator (R68). -/
def State.PoolLaw (s : State) : Prop :=
  (s.holds.map Hold.slot).Nodup ∧ (∀ h ∈ s.holds, h.slot < Config.poolSize) ∧
    (s.holds.map (fun h => (h.circuit, h.originator))).Nodup

/-- The presence values of an enrolled and of an unenrolled station (R19). -/
def State.PresenceLaw (s : State) : Prop :=
  ∀ n, if (s.slot n).enrolled then (s.live n).presence ≠ .heard
    else (s.live n).presence = .unknown ∨ (s.live n).presence = .heard

/-- Every live MOMENTARY hold has a last station whose presence is ONLINE (R74), the presences being those of R19. -/
def State.MomentaryLaw (s : State) : Prop :=
  s.PresenceLaw ∧
    ∀ h ∈ s.holds, h.kind = .momentary → h.isLive = true → ∃ n, h.lastStation = some n ∧ (s.live n).presence = .online

/-- In a configuration, every group lists at most 32 circuits and every preset at most 64 entries, no circuit
twice (R118, R122). -/
def Configuration.ListsFit (g : Configuration) : Prop :=
  (∀ k, (g.groups.get [] k).length ≤ Config.groupSize ∧ (g.groups.get [] k).Nodup) ∧
    ∀ p, (g.presets.get Preset.empty p).entries.length ≤ Config.presetSize ∧
      ((g.presets.get Preset.empty p).entries.map Prod.fst).Nodup

/-- Every group and preset list keeps its bound and lists no circuit twice (R118, R122). -/
def State.ListsLaw (s : State) : Prop := ∀ g ∈ s.configurations, g.ListsFit

/-- The image of an enrolled station is pending whenever it differs from the last-sent image (R35), and no image is pending for
an unenrolled station. -/
def State.ImageLaw (s : State) : Prop :=
  ∀ n, if (s.slot n).enrolled then s.image n ≠ (s.live n).lastImage → (s.live n).imagePending = true
    else (s.live n).imagePending = false

/-- In a configuration, every level lies within 0–1000: those of bindings and preset entries, floors, the holdover level. -/
def Configuration.LevelsFit (g : Configuration) : Prop :=
  (∀ i, (g.bindings.get Binding.empty i).level ≤ 1000) ∧
    (∀ p, ∀ x ∈ (g.presets.get Preset.empty p).entries, x.2 ≤ 1000) ∧
    (∀ c, (g.circuits.get CircuitAttrs.default c).floor ≤ 1000) ∧ g.holdoverLevel ≤ 1000

/-- The levels of a hold lie within 0–1000 (R68), the start level of its ramp with them. -/
def Hold.LevelsFit (h : Hold) : Prop :=
  h.level ≤ 1000 ∧ h.start ≤ 1000 ∧ h.target ≤ 1000 ∧ ∀ r ∈ h.ramp, r.start ≤ 1000

/-- Every hold level lies within 0–1000 (R76), as do the levels of every configuration held. -/
def State.LevelLaw (s : State) : Prop := (∀ g ∈ s.configurations, g.LevelsFit) ∧ ∀ h ∈ s.holds, h.LevelsFit

/-- A sense record or a refusal record that is not valid is the cleared one (R53, R184). -/
def State.ReportsLaw (s : State) : Prop :=
  (s.sense.valid = false → s.sense = SenseRecord.cleared) ∧ (s.refusal.valid = false → s.refusal = RefusalRecord.cleared)

/-! ## What a command leaves, in the words of the statements -/

/-- The state with a result in the result buffer (R182). -/
def State.answered (s : State) (code : ResultCode) (fields : List (Nat × Nat)) : State :=
  { s with port := { s.port with result := ⟨code, packData fields⟩ } }

/-- The state after a host command that was refused: a frame was shifted, the sense record was written, the result buffer
holds the refusal, and nothing else changed (R182, R184). -/
def State.refusedWith (s : State) (command : Byte) (result : ResultCode) (ref : SenseRef) (fields : List (Nat × Nat)) : State :=
  ((s.shiftFrame 96).writeSense command result ref).answered result fields

/-- The state after a host command that was accepted and changes nothing but the port (R182). -/
def State.reported (s : State) (fields : List (Nat × Nat)) : State := (s.shiftFrame 96).answered .ok fields

/-- The live halves of two states agree but for image pending. -/
def State.SameButPending (s t : State) : Prop :=
  ∀ n, t.live n = { s.live n with imagePending := (t.live n).imagePending }

/-- Image pending of a station after an action is what the recomputation of R35 makes of it: recomputed where the station is
enrolled and an input of its image has changed, it is yes where the image differs from the last-sent one, as it was where a poll
carrying an image awaits its reply or a forced pending stands, and no otherwise (when an image is recomputed: log 13). -/
def State.PendingRecomputed (s t : State) (n : Nat) : Prop :=
  (t.live n).imagePending =
    if (t.slot n).enrolled = true ∧ t.imageInputs n ≠ s.imageInputs n then
      if t.image n ≠ (t.live n).lastImage then true
      else if t.imageInFlight n = true ∨ (t.live n).forced = true then (s.live n).imagePending
      else false
    else (s.live n).imagePending

/-- The command sets image pending of station `n` by a rule of its own: a start-up and a restart of its loop (R19, R39, R40), a write
that unenrolls it or enrolls it from HEARD (R21), a valid reply to the poll sent to it (R25, R27). -/
def State.PendingSetBy (s : State) (i : Instr) (n : Nat) : Prop :=
  match i with
  | .startUp _ => True
  | .restart => True
  | .loopRestart l => l.toNat = loopNumber (loopOf n)
  | .writeStation station enrolled _ _ _ => n = station.toNat ∧
      ((s.slot n).enrolled = true ∧ enrolled = 0 ∨
        (s.slot n).enrolled = false ∧ enrolled ≠ 0 ∧ (s.live n).presence = .heard)
  | .idleReply loop address => n = stationNumber loop address.toNat ∧
      (s.loopState loop).inFlight.any (fun p => p.address == address.toNat) = true
  | .keyReport loop address _ _ => n = stationNumber loop address.toNat ∧
      (s.loopState loop).inFlight.any (fun p => p.address == address.toNat) = true
  | _ => False

/-- What every valid reply does for the poll `p` it answers, on the loop, to the live half of the polled station and to the events
(R25, R27); deny marks, expected bit and answer owed are not spoken of. -/
def State.ReplyTaken (s t : State) (loop : Loop) (p : PollSent) : Prop :=
  let n := stationNumber loop p.address
  let v := s.live n
  (∀ l, t.loopState l = if l = loop then { s.loopState l with inFlight := none } else s.loopState l) ∧
  (∀ m, m ≠ n → t.live m = s.live m) ∧
  (t.live n).missCount = 0 ∧ (t.live n).lastImage = p.image.getD v.lastImage ∧
  ((s.slot n).enrolled = true → (t.live n).presence = .online ∧
    if v.presence = .unknown ∨ v.presence = .silent then
      (t.live n).imagePending = true ∧ (t.live n).forced = true ∧ t.events = (s.latchStation n).events
    else
      t.events = s.events ∧
        match p.image with
        | some image => (t.live n).imagePending = (decide (s.image n ≠ image)) ∧ (t.live n).forced = false
        | none => (t.live n).imagePending = v.imagePending ∧ (t.live n).forced = v.forced) ∧
  ((s.slot n).enrolled = false → (t.live n).presence = .heard ∧
    t.events = (if v.presence = .unknown then (s.latchStation n).events else s.events) ∧
    match p.image with
    | some _ => (t.live n).imagePending = false ∧ (t.live n).forced = false
    | none => (t.live n).imagePending = v.imagePending ∧ (t.live n).forced = v.forced)

/-- The sweeper after an accepted edit of R174's list: an ABORTED continuation is discarded (R176). -/
def Sweeper.afterEdit (w : Sweeper) : Sweeper :=
  match w.state with
  | .aborted _ => { w with state := .idle }
  | _ => w

/-- An accepted edit of R174's list that writes configuration alone: the images recomputed, the continuation discarded, the
result answered, and nothing else changed. -/
def State.Edited (s t : State) (fields : List (Nat × Nat)) : Prop :=
  t = { s with config := t.config, stations := t.stations, sweeper := s.sweeper.afterEdit, port := (s.reported fields).port } ∧
    s.SameButPending t

/-- The level a placement or a ramp starts from on a circuit: that of the originator's hold there, or the circuit's merged
level where it has none (R72, R73, R80). -/
def State.startLevel (s : State) (o : Originator) (c : Nat) : Nat :=
  match s.holds.find? (Hold.isOf c o) with
  | some h => h.level
  | none => s.mergedLevel c

/-- The hold is as a placement leaves it on circuit `c`, with target level `target`, begun at level `begun` (R72, R73). -/
def Hold.PlacedBy (h : Hold) (rq : Placement) (c target begun : Nat) : Prop :=
  h.circuit = c ∧ h.originator = rq.originator ∧ h.zone = rq.zone ∧ h.kind = rq.kind ∧ h.priority = rq.priority ∧
    h.lastStation = rq.lastStation ∧ h.expiry = rq.expiry ∧ h.parked = rq.parked ∧ h.placedFade = rq.fade ∧
    h.target = target ∧ h.start = begun ∧ h.length = 4 * rq.fade ∧ h.elapsed = 0 ∧ h.ramp = none ∧
    h.state = (if rq.fade = 0 then .steady else .fading) ∧ h.level = (if rq.fade = 0 then target else begun)

/-- The hold is as a ramp start leaves it on circuit `c`, begun at level `begun` (R62, R80); `before` is the originator's
hold there before it, whose fade fields are kept. -/
def Hold.RampedBy (h : Hold) (rq : Placement) (direction : RampDirection) (c begun : Nat) (before : Option Hold) : Prop :=
  h.circuit = c ∧ h.originator = rq.originator ∧ h.zone = rq.zone ∧ h.kind = .latch ∧ h.priority = rq.priority ∧
    h.lastStation = rq.lastStation ∧ h.expiry = rq.expiry ∧ h.parked = rq.parked ∧ h.state = .ramping ∧ h.level = begun ∧
    h.ramp = some { direction := direction, start := begun, travel := rq.fade, elapsed := 0 } ∧
    match before with
    | some k => h.start = k.start ∧ h.target = k.target ∧ h.length = k.length ∧ h.elapsed = k.elapsed ∧
        h.placedFade = k.placedFade
    | none => h.start = begun ∧ h.target = begun ∧ h.placedFade = rq.fade

/-- The contribution list of circuit `c` has lost the originator's hold, if it had one, and `h` stands at its end (R70). -/
def State.TouchedAt (s t : State) (o : Originator) (c : Nat) (h : Hold) : Prop :=
  contributions t.holds c = (contributions s.holds c).filter (fun k => k.originator != o) ++ [h]

/-- The free slots of the pool, lowest first (R68). -/
def freeSlots (pool : List Hold) : List Nat := (List.range Config.poolSize).filter (fun k => pool.all (fun h => h.slot != k))

/-- The slot of the originator's hold on circuit `c` after a touch: a hold found there keeps its own (R73), and one created has the
free slot of its turn, when `created` holds were created before it in the same request (R68, R71, R72; in a pool that keeps its law,
since a touch in another could free slots). -/
def State.SlotGiven (s : State) (o : Originator) (c created : Nat) (h : Hold) : Prop :=
  match s.holds.find? (Hold.isOf c o) with
  | some k => h.slot = k.slot
  | none => s.PoolLaw → (freeSlots s.holds)[created]? = some h.slot

/-- Each target circuit, a circuit with its target level, has the originator's hold placed at the end of its list, in its own slot
or, created, in the lowest free slot in turn; the lists of the other circuits are as they were. -/
def State.PlacedOn (s t : State) (rq : Placement) (targets : List (Nat × Nat)) : Prop :=
  (∀ before x after, targets = before ++ x :: after → ∃ h, s.TouchedAt t rq.originator x.1 h ∧
    h.PlacedBy rq x.1 x.2 (s.startLevel rq.originator x.1) ∧
    s.SlotGiven rq.originator x.1 (lacking s.holds rq.originator before) h) ∧
    ∀ c, (∀ x ∈ targets, x.1 ≠ c) → contributions t.holds c = contributions s.holds c

/-- Each target circuit has the originator's hold ramping at the end of its list, in its own slot or, created, in the lowest free
slot in turn; the lists of the other circuits are as they were. -/
def State.RampedOn (s t : State) (rq : Placement) (direction : RampDirection) (targets : List (Nat × Nat)) : Prop :=
  (∀ before x after, targets = before ++ x :: after → ∃ h, s.TouchedAt t rq.originator x.1 h ∧
    h.RampedBy rq direction x.1 (s.startLevel rq.originator x.1) (s.holds.find? (Hold.isOf x.1 rq.originator)) ∧
    s.SlotGiven rq.originator x.1 (lacking s.holds rq.originator before) h) ∧
    ∀ c, (∀ x ∈ targets, x.1 ≠ c) → contributions t.holds c = contributions s.holds c

/-- What a mode change does outside the mode (R136): a MODE event with its cause, every hold parked exactly where its zone is
present and CLOSED in the new mode, and nothing else of any hold or of any station but image pending. -/
def State.ModeChanged (s t : State) (mode : Mode) (cause : ModeCause) : Prop :=
  t.mode = mode ∧ t.events = (s.latchMode mode cause).events ∧
    t.holds = s.holds.map (fun h => { h with parked := t.parks h.zone }) ∧ s.SameButPending t

/-- The live state is empty, as a start-up leaves it (R195 and the Initialization lines of each block). -/
def State.LiveStateEmpty (s : State) : Prop :=
  s.powered = true ∧ s.timers = Timers.started s.clock ∧ s.holds = [] ∧ s.queue = [] ∧ s.current = none ∧
    (∀ n, s.live n = StationLive.fresh (s.slot n).enrolled) ∧ (∀ loop, s.loopState loop = LoopState.fresh) ∧
    (∀ c, s.circuit c = CircuitLive.clear) ∧ s.lock = .free ∧ (∀ r, s.rack r = Rack.fresh) ∧ s.rackInFlight = none ∧
    s.sweeper = { state := .idle, changed := 0 } ∧ s.sense = SenseRecord.cleared ∧ s.refusal = RefusalRecord.cleared ∧
    s.mask = EventGroups.all true ∧ s.port.frameBad = false ∧ s.port.result = ⟨.ok, 0⟩

/-- The events that a STORE event alone leaves (R187, R195). -/
def Events.storeOnly (outcome : StoreOutcome) : Events :=
  { flags := { EventGroups.all false with store := true }, details := { EventDetails.zero with storeOutcome := outcome } }

/-- An event of a timer comes when the guide has it come: a free-running timer at the moment it is due, the lock timer at
the end of the period, the end of a store write within 2 s of its SAVE. Any other command may come at any moment. The
meanings do not ask it, but for the lock timer's, which a renewal moves on (R147, R151): what the guide says of an event it says
of the event itself (log 3). -/
def Instr.timely (i : Instr) (s : State) : Bool :=
  match i with
  | .fadeStep => s.clock == s.timers.fadeStep
  | .minuteTimer => s.clock == s.timers.minute
  | .refreshTimer r => s.clock == s.timers.refresh.get 0 r.toNat
  | .faultMinuteTimer => s.clock == s.timers.faultMinute
  | .lockTimerExpiry =>
    match s.lock with
    | .free => false
    | .first h => s.clock == h.since + Config.lockTicks h.period
    | .windowed h => s.clock == h.since + Config.lockTicks h.period
  | .saveCompletion =>
    match s.store with
    | .writing _ since => decide (s.clock ≤ since + Config.writeTicks)
    | _ => false
  | _ => true

end Sys2Proof.Machine
end

