-- ==== Sys2Proof/Certificates/Slice0/Obligations.lean ====
section
/-! DEFINITION. The statements for the provers: what each command does, rule by rule, and the laws that every step keeps.
A frame is said as a record update: the state after is the state before, with only the fields named taken from the
state after. -/
open Sys2Proof Sys2Proof.Machine

/-! ## Steps -/

/-- A step takes the command at the front of the queue: it is `exec` of it on the state with the queue's rest. -/
def Obligations.StepTakesFrontCommand : Prop :=
  ∀ (c : Instr) (s : State) (rest : List Instr),
    step { s with pending := c :: rest } = exec c { s with pending := rest }

/-- Every command of the table has a next state and leaves the queue alone; the two kinds of term that are no command are
refused by name. The model's choices: on an empty queue one tick passes (log 3), a part without power changes in nothing but by
a start-up or a power loss (log 9), the terms that are no command (log 16). -/
def Obligations.CommandsComplete : Prop :=
  (∀ (c : Instr) (s : State), c.wellFormed = true → ∃ t, exec c s = .next t ∧ t.pending = s.pending) ∧
  (∀ (edges : Nat) (s : State), edges = 8 ∨ edges = 96 → exec (.badFrame edges) s = .refused .illFormed) ∧
  (∀ (code : Byte) (s : State), code ∈ commandCodes → exec (.badCommand code) s = .refused .illFormed) ∧
  (∀ s : State, s.pending = [] → s.powered = true → step s = .next { s with clock := s.clock + 1 }) ∧
  (∀ s : State, s.pending = [] → s.powered = false → step s = .next s) ∧
  ∀ (c : Instr) (s : State), s.powered = false → c.wellFormed = true → (∀ p, c ≠ .startUp p) → c ≠ .powerLoss →
    exec c s = .next s

/-! ## Start-up and frames -/

/-- START_UP (R195, R196): live state empty, the panic input latched, the configuration loaded from a VALID store or
defaulted, the mode chosen, the STORE event latched; with the defaults every circuit runs at 1000 and code 255. -/
def Obligations.StartUpLoadsTheStore : Prop :=
  ∀ (s : State) (p : Bool), ∃ t, exec (.startUp p) s = .next t ∧ t.LiveStateEmpty ∧ t.panicLatch = p ∧
    t.pending = s.pending ∧
    (∀ image, s.store = .valid image → t.store = .valid image ∧ t.config = image ∧
      t.mode = (if p then Mode.panic else Mode.openHouse) ∧ t.events = Events.storeOnly .loaded) ∧
    ((∀ image, s.store ≠ .valid image) → t.store = .invalid ∧ t.config = Configuration.default ∧ t.mode = .panic ∧
      t.events = Events.storeOnly .invalid ∧ ∀ c, c < 384 → t.outputLevel c = 1000 ∧ t.rackCode c = 255)

/-- A frame of neither 8 nor 96 edges sets FRAME_BAD and changes nothing but the port, whose result buffer it keeps; a frame of
8 edges shifts the status byte, clears FRAME_BAD and changes nothing else (R178, R179). NOP answers OK with all data 0 and changes
nothing but the port; a code that names no command is refused with BAD_COMMAND and a sense record that carries it (R181). -/
def Obligations.FramesWithoutAction : Prop :=
  (∀ (s : State) (edges : Nat), s.powered = true → edges ≠ 8 → edges ≠ 96 → ∃ t, exec (.badFrame edges) s = .next t ∧
    t.port.frameBad = true ∧ t.port.result = s.port.result ∧ t.port.shiftedBytes = (List.range (edges / 8)).map s.frameByte ∧
    t.port.shiftedBits.length = edges % 8 ∧ t = { s with port := t.port }) ∧
  (∀ s : State, s.powered = true → exec .statusOnlyFrame s =
    .next { s with port := { s.port with frameBad := false, shiftedBytes := [s.statusByte], shiftedBits := [] } }) ∧
  (∀ s : State, s.powered = true → exec .nop s = .next (s.reported [])) ∧
  ∀ (s : State) (code : Byte), s.powered = true → code ∉ commandCodes → ∃ t, exec (.badCommand code) s = .next t ∧
    t.port.result = ⟨.badCommand, 0⟩ ∧
    t.sense = { valid := true, command := code, result := .badCommand, ref := .none, refValid := false,
                earlierUnread := s.sense.valid } ∧
    t = { s with port := t.port, sense := t.sense }

/-- Every command frame shifts out the status byte and the result of the command before it, as they stand when select falls,
and clears FRAME_BAD; the status byte shows the state (R180, R182). -/
def Obligations.CommandFramesShiftOldResult : Prop :=
  (∀ (c : Instr) (k : Byte) (s t : State), c.code = some k → s.powered = true → exec c s = .next t →
    t.port.shiftedBytes = (List.range 12).map s.frameByte ∧ t.port.shiftedBits = [] ∧ t.port.frameBad = false) ∧
  (∀ s : State, s.frameByte 0 = s.statusByte ∧ s.frameByte 1 = BitVec.ofNat 8 s.port.result.code.code ∧
    ∀ j, j < 10 → s.frameByte (j + 2) = BitVec.ofNat 8 (s.port.result.data.toNat / 2 ^ (8 * j))) ∧
  ∀ s : State, s.statusByte.toNat = s.mode.code + 8 * s.lock.isHeld.toNat + 16 * s.store.busy.toNat +
    32 * s.sweeper.active.toNat + 64 * s.port.frameBad.toNat + 128 * (attention s.events.flags s.mask).toNat

/-- IDENTIFY (R190): the ten data bytes, whatever the state, and nothing but the port changed. -/
def Obligations.IdentifyAnswersIdentity : Prop :=
  ∀ s : State, s.powered = true → ∃ t, exec .identify s = .next t ∧ t.port.result.code = .ok ∧
    ((List.range 10).map fun k => BitVec.ofNat 8 (t.port.result.data.toNat / 2 ^ (8 * k))) =
      ([0x54, 0x38, 1] : List Byte) ++ leBytes 2 384 ++ leBytes 2 1024 ++ leBytes 2 512 ++ [126] ∧
    t = { s with port := t.port }

/-- A refused host command writes the sense record with its code and result and changes nothing else but the port; an
accepted one leaves the sense record alone, but for READ_SENSE, SWEEP_ABORT and RESTART (R182, R184). LOCK_RENEW, whose
refusal may lapse the lock, has its refusals in a statement of its own. -/
def Obligations.RefusalsChangeOnlyReports : Prop :=
  (∀ (c : Instr) (k : Byte) (s t : State), c.code = some k → (∀ b, c ≠ .lockRenew b) → s.powered = true →
    exec c s = .next t → t.port.result.code ≠ .ok → ∃ ref : SenseRef,
      t.sense = { valid := true, command := k, result := t.port.result.code, ref := ref, refValid := ref.isValid,
                  earlierUnread := s.sense.valid } ∧
      t = { s with port := t.port, sense := t.sense }) ∧
  ∀ (c : Instr) (k : Byte) (s t : State), c.code = some k → c ≠ .readSense → c ≠ .sweepAbort → c ≠ .restart →
    s.powered = true → exec c s = .next t → t.port.result.code = .ok → t.sense = s.sense

/-! ## Stations -/

/-- WRITE_STATION (R20): an accepted write replaces one slot's configuration half and reports whether the station was enrolled;
with enrolled unchanged no live field but image pending changes; a refused write names the station. -/
def Obligations.StationWriteReplacesSlot : Prop :=
  ∀ (s : State) (station enrolled : Byte) (base : Half) (count authority : Byte), s.powered = true →
    ((stationUsable station.toNat = true ∧ base.toNat ≤ 1023 ∧ 1 ≤ count.toNat ∧ count.toNat ≤ 16 ∧ authority.toNat ≤ 3) →
      ∃ t, exec (.writeStation station enrolled base count authority) s = .next t ∧
        t.slot station.toNat =
          { enrolled := enrolled != 0, base := base.toNat, count := count.toNat, authority := authority.toNat } ∧
        (∀ m, m ≠ station.toNat → t.slot m = s.slot m) ∧
        t.port = (s.reported [(7, station.toNat), yesNo (s.slot station.toNat).enrolled]).port ∧
        t = { s with config := { s.config with stations := t.config.stations }, stations := t.stations, holds := t.holds,
                     events := t.events, port := t.port } ∧
        ((s.slot station.toNat).enrolled = (enrolled != 0) →
          s.SameButPending t ∧ t.holds = s.holds ∧ t.events = s.events)) ∧
    (¬ (stationUsable station.toNat = true ∧ base.toNat ≤ 1023 ∧ 1 ≤ count.toNat ∧ count.toNat ≤ 16 ∧ authority.toNat ≤ 3) →
      exec (.writeStation station enrolled base count authority) s =
        .next (s.refusedWith 0x08 .badParameter (.station station.toNat) []))

/-- A change of enrolled (R21). From no to yes a HEARD station becomes ONLINE with its image pending and a STATION event. From
yes to no an ONLINE station becomes HEARD and any other UNKNOWN, the miss count becomes 0, no image is pending, and the
station's momentary holds are released. The rest of the live half, and every other station but for image pending, is kept. -/
def Obligations.EnrollmentChange : Prop :=
  ∀ (s t : State) (station enrolled : Byte) (base : Half) (count authority : Byte), s.powered = true →
    stationUsable station.toNat = true → base.toNat ≤ 1023 → 1 ≤ count.toNat → count.toNat ≤ 16 → authority.toNat ≤ 3 →
    exec (.writeStation station enrolled base count authority) s = .next t →
    (∀ m, m ≠ station.toNat → t.live m = { s.live m with imagePending := (t.live m).imagePending }) ∧
    ((s.slot station.toNat).enrolled = false → enrolled ≠ 0 → t.holds = s.holds ∧
      if (s.live station.toNat).presence = .heard then
        t.live station.toNat = { s.live station.toNat with presence := .online, imagePending := true, forced := true } ∧
          t.events = (s.latchStation station.toNat).events
      else
        t.live station.toNat =
            { s.live station.toNat with imagePending := (t.live station.toNat).imagePending } ∧ t.events = s.events) ∧
    ((s.slot station.toNat).enrolled = true → enrolled = 0 → t.events = s.events ∧
      t.holds = releaseWhere (fun h => h.kind == .momentary && h.lastStation == some station.toNat) s.holds ∧
      t.live station.toNat =
        { s.live station.toNat with
            presence := if (s.live station.toNat).presence = .online then .heard else .unknown
            missCount := 0, imagePending := false, forced := false })

/-- LOOP_RESTART (R39): the loop's stations, controller and queue entries start afresh, its momentary holds are released, and
everything else is kept; a loop number above 1 is refused. -/
def Obligations.LoopRestart : Prop :=
  (∀ (s : State) (parameter : Byte) (loop : Loop), s.powered = true → parameter.toNat = loopNumber loop →
    ∃ t, exec (.loopRestart parameter) s = .next t ∧
      (∀ n, n < 128 → loopOf n = loop → t.live n = StationLive.fresh (s.slot n).enrolled) ∧
      (∀ n, loopOf n ≠ loop → t.live n = { s.live n with imagePending := (t.live n).imagePending }) ∧
      (∀ l, t.loopState l = if l = loop then LoopState.fresh else s.loopState l) ∧
      t.queue = s.queue.filter (fun e => e.loop != loop) ∧
      t.holds = releaseWhere (fun h => h.kind == .momentary && h.lastStation.any (fun n => loopOf n == loop)) s.holds ∧
      t.port = (s.reported []).port ∧
      t = { s with stations := t.stations, loopA := t.loopA, loopB := t.loopB, queue := t.queue, holds := t.holds,
                   port := t.port }) ∧
  ∀ (s : State) (parameter : Byte), s.powered = true → 1 < parameter.toNat →
    exec (.loopRestart parameter) s = .next (s.refusedWith 0x0A .badParameter .none [])

/-- POLL and DISCOVERY_POLL (R23 to R25), with no transaction in flight on the loop. The poll goes to the lowest enrolled
address above the one just polled; when none is left, the discovery poll goes to the first address after the cursor, wrapping
from 63 to 1, at which no station is enrolled, and moves the cursor there. It carries the answer owed, which becomes NONE, the
deny marks, and on an enrolled station the current image if one is pending. With all 63 addresses enrolled the round ends with no
discovery poll and the cursor kept; that the next round's poll does not wait for a discovery event is the model's reading (log
8). -/
def Obligations.PollsCarryWhatIsOwed : Prop :=
  ∀ (s : State) (loop : Loop), s.powered = true → (s.loopState loop).inFlight = none →
    (∀ a, ((s.loopState loop).position < a ∧ 1 ≤ a ∧ a ≤ 63 ∧ s.enrolledAt loop a = true ∧
          (∀ b, (s.loopState loop).position < b → 1 ≤ b → b < a → s.enrolledAt loop b = false) ∨
        63 ≤ (s.loopState loop).position ∧ a = 1 ∧ ∀ b, 1 ≤ b → b ≤ 63 → s.enrolledAt loop b = true) →
      ∃ t, exec (.poll loop) s = .next t ∧
        t.loopState loop = { s.loopState loop with
          position := a
          inFlight := some
            { address := a, answer := (s.live (stationNumber loop a)).answer, deny := (s.live (stationNumber loop a)).deny,
              image := if (s.live (stationNumber loop a)).imagePending then some (s.image (stationNumber loop a)) else none } } ∧
        (∀ l, l ≠ loop → t.loopState l = s.loopState l) ∧
        (∀ n, t.live n = if n = stationNumber loop a then { s.live n with answer := .none } else s.live n) ∧
        t = { s with stations := t.stations, loopA := t.loopA, loopB := t.loopB }) ∧
    (∀ a, (∀ b, (s.loopState loop).position < b → 1 ≤ b → b ≤ 63 → s.enrolledAt loop b = false) → 1 ≤ a → a ≤ 63 →
      s.enrolledAt loop a = false →
      ((s.loopState loop).cursor < a ∧ (∀ b, (s.loopState loop).cursor < b → 1 ≤ b → b < a → s.enrolledAt loop b = true) ∨
        a ≤ (s.loopState loop).cursor ∧
          (∀ b, (s.loopState loop).cursor < b → 1 ≤ b → b ≤ 63 → s.enrolledAt loop b = true) ∧
          ∀ b, 1 ≤ b → b < a → s.enrolledAt loop b = true) →
      ∃ t, exec (.discoveryPoll loop) s = .next t ∧
        t.loopState loop =
          { cursor := a, position := 0
            inFlight := some
              { address := a, answer := (s.live (stationNumber loop a)).answer,
                deny := (s.live (stationNumber loop a)).deny, image := none } } ∧
        (∀ l, l ≠ loop → t.loopState l = s.loopState l) ∧
        (∀ n, t.live n = if n = stationNumber loop a then { s.live n with answer := .none } else s.live n) ∧
        t = { s with stations := t.stations, loopA := t.loopA, loopB := t.loopB }) ∧
    (63 ≤ (s.loopState loop).position → (∀ b, 1 ≤ b → b ≤ 63 → s.enrolledAt loop b = true) →
      ∃ t, exec (.discoveryPoll loop) s = .next t ∧
        (∀ l, t.loopState l = if l = loop then { s.loopState l with position := 0 } else s.loopState l) ∧
        t = { s with loopA := t.loopA, loopB := t.loopB })

/-- A valid reply (R25 to R27), here an IDLE one: the poll it answers is taken as received, and presence is updated; the expected
bit and the answer owed are kept, and of the deny marks those that the poll carried are removed. -/
def Obligations.ValidReplySetsPresence : Prop :=
  ∀ (s : State) (loop : Loop) (address : BitVec 6) (p : PollSent), s.powered = true →
    (s.loopState loop).inFlight = some p → address.toNat = p.address →
    ∃ t, exec (.idleReply loop address) s = .next t ∧ s.ReplyTaken t loop p ∧
      t = { s with stations := t.stations, loopA := t.loopA, loopB := t.loopB, events := t.events } ∧
      let n := stationNumber loop p.address
      let v := s.live n
      (t.live n).expected = v.expected ∧ (t.live n).answer = v.answer ∧ (t.live n).deny = v.deny &&& ~~~ p.deny

/-- A valid KEY_REPORT (R31 to R33). From an enrolled station a new report is taken whole when the press queue has room for all
its transitions, answered WAIT when it has not, and a duplicate is acknowledged and discarded. From an unenrolled station
every report is acknowledged and discarded, and a new one leaves its controls as deny marks. To the loops, the presence, the image
and the events it does what any valid reply does (R25, R27). -/
def Obligations.KeyReportsAreTakenWhole : Prop :=
  ∀ (s : State) (loop : Loop) (address : BitVec 6) (bit : Bool) (ts : List Transition) (p : PollSent), s.powered = true →
    (s.loopState loop).inFlight = some p → address.toNat = p.address → 1 ≤ ts.length → ts.length ≤ 4 →
    ∃ t, exec (.keyReport loop address bit ts) s = .next t ∧ s.ReplyTaken t loop p ∧
      t = { s with stations := t.stations, loopA := t.loopA, loopB := t.loopB, queue := t.queue, events := t.events } ∧
      let n := stationNumber loop p.address
      let v := s.live n
      let isNew := v.expected = none ∨ v.expected = some bit
      ((s.slot n).enrolled = true → (t.live n).deny = v.deny &&& ~~~ p.deny ∧
        (isNew → ts.length ≤ 32 - s.queue.length → (t.live n).expected = some (!bit) ∧ (t.live n).answer = .ack bit ∧
          t.queue = s.queue ++
            ts.map fun x => { station := n, control := x.control.toNat, edge := x.edge, loop := loop : PressEntry }) ∧
        (isNew → 32 - s.queue.length < ts.length →
          (t.live n).expected = v.expected ∧ (t.live n).answer = .wait ∧ t.queue = s.queue) ∧
        (¬ isNew → (t.live n).expected = v.expected ∧ (t.live n).answer = .ack bit ∧ t.queue = s.queue)) ∧
      ((s.slot n).enrolled = false → t.queue = s.queue ∧ (t.live n).answer = .ack bit ∧
        (isNew → (t.live n).expected = some (!bit) ∧
          ∀ c, c < 16 → (t.live n).deny.getLsbD c =
            ((v.deny &&& ~~~ p.deny).getLsbD c || ts.any (fun x => x.control.toNat == c))) ∧
        (¬ isNew → (t.live n).expected = v.expected ∧ (t.live n).deny = v.deny &&& ~~~ p.deny))

/-- A miss (R28, R29), and what is one (R26). The third miss in a row makes an enrolled station SILENT: its deny marks and answer
are emptied and its momentary holds are released. A reply of another address, or a report of no or more than four
transitions, is a miss; with no poll in flight nothing is (the model's readings, logs 15 and 8). -/
def Obligations.MissesAndInvalidReplies : Prop :=
  (∀ (s : State) (loop : Loop) (p : PollSent), s.powered = true → (s.loopState loop).inFlight = some p → p.address < 64 →
    ∃ t, exec (.stationMiss loop) s = .next t ∧
      (∀ l, t.loopState l = if l = loop then { s.loopState l with inFlight := none } else s.loopState l) ∧
      t = { s with stations := t.stations, loopA := t.loopA, loopB := t.loopB, holds := t.holds, events := t.events } ∧
      (∀ n, n ≠ stationNumber loop p.address → t.live n = { s.live n with imagePending := (t.live n).imagePending }) ∧
      let n := stationNumber loop p.address
      let v := s.live n
      ((s.slot n).enrolled = true → v.missCount ≠ 2 → t.holds = s.holds ∧ t.events = s.events ∧
        t.live n = { v with missCount := min 3 (v.missCount + 1) }) ∧
      ((s.slot n).enrolled = true → v.missCount = 2 → t.events = (s.latchStation n).events ∧
        t.holds = releaseWhere (fun h => h.kind == .momentary && h.lastStation == some n) s.holds ∧
        t.live n = { v with missCount := 3, presence := .silent, deny := 0, answer := .none,
                            imagePending := (t.live n).imagePending }) ∧
      ((s.slot n).enrolled = false → t.holds = s.holds ∧
        if v.presence = .heard then
          if v.missCount < 2 then t.live n = { v with missCount := v.missCount + 1 } ∧ t.events = s.events
          else t.live n = { v with missCount := 0, presence := .unknown } ∧ t.events = (s.latchStation n).events
        else t.live n = v ∧ t.events = s.events)) ∧
  (∀ (s : State) (loop : Loop) (p : PollSent) (address : BitVec 6) (bit : Bool) (ts : List Transition),
    (s.loopState loop).inFlight = some p → address.toNat ≠ p.address ∨ ts.length = 0 ∨ 4 < ts.length →
    exec (.keyReport loop address bit ts) s = exec (.stationMiss loop) s ∧
      (address.toNat ≠ p.address → exec (.idleReply loop address) s = exec (.stationMiss loop) s)) ∧
  ∀ (s : State) (loop : Loop) (address : BitVec 6) (bit : Bool) (ts : List Transition),
    s.powered = true → (s.loopState loop).inFlight = none → exec (.keyReport loop address bit ts) s = .next s ∧
      exec (.idleReply loop address) s = .next s ∧ exec (.stationMiss loop) s = .next s

/-! ## Bindings -/

/-- WRITE_BINDING and CLEAR_BINDING (R11 to R14): the checks in order; an accepted command replaces the one record whole, by
the record read from the frame or by the empty one, and touches no hold. -/
def Obligations.BindingWritesReplaceRecord : Prop :=
  (∀ (s : State) (index : Half) (record : BitVec 72), s.powered = true →
    (s.sweeper.active = true →
      exec (.writeBinding index record) s = .next (s.refusedWith 0x10 .sweepActive (.binding index.toNat) [])) ∧
    (s.sweeper.active = false → 1023 < index.toNat →
      exec (.writeBinding index record) s = .next (s.refusedWith 0x10 .badParameter (.binding index.toNat) [])) ∧
    (s.sweeper.active = false → index.toNat ≤ 1023 → recordPresent record = true → readRecord record = none →
      exec (.writeBinding index record) s = .next (s.refusedWith 0x10 .badParameter (.binding index.toNat) [])) ∧
    ∀ b, s.sweeper.active = false → index.toNat ≤ 1023 →
      (recordPresent record = false ∧ b = Binding.empty ∨ recordPresent record = true ∧ readRecord record = some b) →
      ∃ t, exec (.writeBinding index record) s = .next t ∧
        s.Edited t [(10, index.toNat), yesNo (s.binding index.toNat).present] ∧
        t.config = { s.config with bindings := t.config.bindings } ∧
        ∀ i, t.binding i = if i = index.toNat then b else s.binding i) ∧
  ∀ (s : State) (index : Half), s.powered = true →
    (s.sweeper.active = true →
      exec (.clearBinding index) s = .next (s.refusedWith 0x12 .sweepActive (.binding index.toNat) [])) ∧
    (s.sweeper.active = false → 1023 < index.toNat →
      exec (.clearBinding index) s = .next (s.refusedWith 0x12 .badParameter (.binding index.toNat) [])) ∧
    (s.sweeper.active = false → index.toNat ≤ 1023 → ∃ t, exec (.clearBinding index) s = .next t ∧
      s.Edited t [(10, index.toNat), yesNo (s.binding index.toNat).present] ∧
      t.config = { s.config with bindings := t.config.bindings } ∧
      ∀ i, t.binding i = if i = index.toNat then Binding.empty else s.binding i)

/-- The packed binding record (R183): every record that WRITE_BINDING accepts comes back, read from the bytes that READ_BINDING
gives for it; and whatever record WRITE_BINDING reads has its fields within their ranges, in an allowed pairing (R11). -/
def Obligations.BindingRecordRoundTrip : Prop :=
  (∀ b : Binding, b.present = true → b.fits = true →
    recordPresent (writeRecord b) = true ∧ readRecord (writeRecord b) = some b) ∧
  ∀ (r : BitVec 72) (b : Binding), readRecord r = some b → b.present = true ∧ b.fits = true

/-! ## Circuits -/

/-- WRITE_CIRCUIT (R100, R101): the checks in order; an accepted write replaces the six attributes, forces panic participant on
an egress circuit, and keeps the retired attribute and everything else. -/
def Obligations.CircuitWriteReplacesAttributes : Prop :=
  ∀ (s : State) (circuit : Half) (egress : Byte) (floor : Half) (house participant curve mergeRule : Byte),
    s.powered = true →
    (s.sweeper.active = true → exec (.writeCircuit circuit egress floor house participant curve mergeRule) s =
      .next (s.refusedWith 0x18 .sweepActive (.circuit circuit.toNat) [])) ∧
    (s.sweeper.active = false → 383 < circuit.toNat ∨ 1000 < floor.toNat ∨ 2 < curve.toNat ∨ 1 < mergeRule.toNat →
      exec (.writeCircuit circuit egress floor house participant curve mergeRule) s =
        .next (s.refusedWith 0x18 .badParameter (.circuit circuit.toNat) [])) ∧
    ∀ k m, s.sweeper.active = false → circuit.toNat ≤ 383 → floor.toNat ≤ 1000 → curveOf curve.toNat = some k →
      mergeRuleOf mergeRule.toNat = some m →
      (egress ≠ 0 → (s.attrs circuit.toNat).retired = true →
        exec (.writeCircuit circuit egress floor house participant curve mergeRule) s =
          .next (s.refusedWith 0x18 .egressProtected (.circuit circuit.toNat) [])) ∧
      (egress = 0 ∨ (s.attrs circuit.toNat).retired = false →
        ∃ t, exec (.writeCircuit circuit egress floor house participant curve mergeRule) s = .next t ∧
          s.Edited t [(9, circuit.toNat), yesNo (egress != 0 || participant != 0)] ∧
          t.config = { s.config with circuits := t.config.circuits } ∧
          ∀ c, t.attrs c = if c = circuit.toNat then
            { egress := egress != 0, floor := floor.toNat, house := house != 0,
              panicParticipant := egress != 0 || participant != 0, curve := k, mergeRule := m,
              retired := (s.attrs c).retired } else s.attrs c)

/-- RETIRE_CIRCUIT (R103, R104): the checks in order; a circuit in service is retired, its holds removed and a CIRCUIT event
latched; a retired one stays as it is. That the command, accepted on a retired circuit, discards an ABORTED continuation as every
accepted edit does (R176) although it "changes nothing" (R103) is the model's choice between the two rules (log 20). -/
def Obligations.RetirementRemovesHolds : Prop :=
  ∀ (s : State) (circuit : Half), s.powered = true →
    (s.sweeper.active = true →
      exec (.retireCircuit circuit) s = .next (s.refusedWith 0x1A .sweepActive (.circuit circuit.toNat) [])) ∧
    (s.sweeper.active = false → 383 < circuit.toNat →
      exec (.retireCircuit circuit) s = .next (s.refusedWith 0x1A .badParameter (.circuit circuit.toNat) [])) ∧
    (s.sweeper.active = false → circuit.toNat ≤ 383 → (s.attrs circuit.toNat).egress = true →
      exec (.retireCircuit circuit) s = .next (s.refusedWith 0x1A .egressProtected (.circuit circuit.toNat) [])) ∧
    (s.sweeper.active = false → circuit.toNat ≤ 383 → (s.attrs circuit.toNat).egress = false →
      (s.attrs circuit.toNat).retired = true →
      exec (.retireCircuit circuit) s =
        .next { s.reported [(9, circuit.toNat), (10, 0), yesNo true] with sweeper := s.sweeper.afterEdit }) ∧
    (s.sweeper.active = false → circuit.toNat ≤ 383 → (s.attrs circuit.toNat).egress = false →
      (s.attrs circuit.toNat).retired = false →
      ∃ t, exec (.retireCircuit circuit) s = .next t ∧
        (∀ c, t.attrs c = if c = circuit.toNat then { s.attrs c with retired := true } else s.attrs c) ∧
        t.holds = s.holds.filter (fun h => h.circuit != circuit.toNat) ∧ contributions t.holds circuit.toNat = [] ∧
        t.events = (s.latchCircuit circuit.toNat).events ∧ t.sweeper = s.sweeper.afterEdit ∧ s.SameButPending t ∧
        t.port = (s.reported [(9, circuit.toNat), (10, (contributions s.holds circuit.toNat).length), yesNo false]).port ∧
        t.outputLevel circuit.toNat = 0 ∧ t.rackCode circuit.toNat = 0 ∧
        t = { s with config := { s.config with circuits := t.config.circuits }, stations := t.stations, holds := t.holds,
                     events := t.events, sweeper := t.sweeper, port := t.port })

/-- RESTORE_CIRCUIT (R105): retired no, fault count 0 and mark clear together, whether or not the circuit was retired. -/
def Obligations.RestoreClearsFaults : Prop :=
  ∀ (s : State) (circuit : Half), s.powered = true →
    (s.sweeper.active = true →
      exec (.restoreCircuit circuit) s = .next (s.refusedWith 0x1B .sweepActive (.circuit circuit.toNat) [])) ∧
    (s.sweeper.active = false → 383 < circuit.toNat →
      exec (.restoreCircuit circuit) s = .next (s.refusedWith 0x1B .badParameter (.circuit circuit.toNat) [])) ∧
    (s.sweeper.active = false → circuit.toNat ≤ 383 → ∃ t, exec (.restoreCircuit circuit) s = .next t ∧
      (∀ c, t.attrs c = if c = circuit.toNat then { s.attrs c with retired := false } else s.attrs c) ∧
      (∀ c, t.circuit c =
        if c = circuit.toNat then { s.circuit c with faultCount := 0, reported := false } else s.circuit c) ∧
      t.port = (s.reported [(9, circuit.toNat), yesNo (s.attrs circuit.toNat).retired,
        (3, (s.circuit circuit.toNat).faultCount)]).port ∧
      t.sweeper = s.sweeper.afterEdit ∧ s.SameButPending t ∧
      t = { s with config := { s.config with circuits := t.config.circuits }, circuits := t.circuits,
                   stations := t.stations, sweeper := t.sweeper, port := t.port })

/-! ## Reading commands -/

/-- READ_STATION, READ_BINDING, GROUP_READ and PRESET_READ (R15, R22, R121, R126): the record as it stands, and nothing but
the port changed; beyond the list's end NOT_FOUND with the data the rule keeps. -/
def Obligations.ConfigurationReads : Prop :=
  (∀ (s : State) (station : Byte), s.powered = true → exec (.readStation station) s = .next
    (if stationUsable station.toNat then
      s.reported
        [yesNo (s.slot station.toNat).enrolled, (10, (s.slot station.toNat).base), (5, (s.slot station.toNat).count),
         (2, (s.slot station.toNat).authority), (2, (s.live station.toNat).presence.code),
         (2, (s.live station.toNat).missCount), (2, expectedCode (s.live station.toNat).expected),
         (3, (s.live station.toNat).answer.code), yesNo (s.live station.toNat).imagePending,
         (16, (s.live station.toNat).deny.toNat)]
    else s.refusedWith 0x09 .badParameter (.station station.toNat) [])) ∧
  (∀ (s : State) (index : Half), s.powered = true → exec (.readBinding index) s = .next
    (if index.toNat ≤ 1023 then s.reported [(72, (writeRecord (s.binding index.toNat)).toNat)]
    else s.refusedWith 0x11 .badParameter (.binding index.toNat) [])) ∧
  (∀ (s : State) (group position : Byte), s.powered = true → exec (.groupRead group position) s = .next
    (if 63 < group.toNat ∨ 31 < position.toNat then s.refusedWith 0x22 .badParameter (.group group.toNat) []
    else match (s.group group.toNat)[position.toNat]? with
      | some c => s.reported [(6, (s.group group.toNat).length), (9, c), yesNo (s.attrs c).retired]
      | none => s.refusedWith 0x22 .notFound (.group group.toNat) [(6, (s.group group.toNat).length)])) ∧
  ∀ (s : State) (preset position : Byte), s.powered = true → exec (.presetRead preset position) s = .next
    (let v := s.preset preset.toNat
     let always := [(7, v.entries.length), (10, v.fade), (4, v.zone), yesNo (s.presetBusy preset.toNat)]
     if 47 < preset.toNat ∨ 63 < position.toNat then s.refusedWith 0x26 .badParameter (.preset preset.toNat) []
     else match v.entries[position.toNat]? with
      | some x => s.reported (always ++ [(9, x.1), (10, x.2), yesNo (s.attrs x.1).retired])
      | none => s.refusedWith 0x26 .notFound (.preset preset.toNat) always)

/-- READ_CIRCUIT and LIST_HOLDS (R94, R102): the circuit's own record, list and levels as they stand, without the MOVING
mapping, and nothing but the port changed. -/
def Obligations.CircuitReads : Prop :=
  (∀ (s : State) (circuit : Half), s.powered = true → exec (.readCircuit circuit) s = .next
    (let c := circuit.toNat
     let a := s.attrs c
     if 383 < c then s.refusedWith 0x19 .badParameter (.circuit c) []
     else s.reported
      [yesNo a.egress, (10, a.floor), yesNo a.house, yesNo a.panicParticipant, (2, a.curve.code), (1, a.mergeRule.code),
       yesNo a.retired, (10, s.outputLevel c), (8, s.rackCode c), (3, (s.circuit c).faultCount),
       (10, (s.holds.filter (fun h => h.circuit == c)).length), optional 9 (s.circuit c).moving])) ∧
  ∀ (s : State) (circuit position : Half), s.powered = true → exec (.listHolds circuit position) s = .next
    (let c := circuit.toNat
     let list := s.holds.filter (fun h => h.circuit == c)
     if 383 < c ∨ 511 < position.toNat then s.refusedWith 0x1C .badParameter (.circuit c) []
     else match list[position.toNat]? with
      | some h => s.reported
          [(10, list.length), (9, h.slot), (12, h.originator.code), optional 4 h.zone, (1, h.kind.code), (3, h.priority),
           (2, h.state.code), yesNo h.parked, (10, h.level), (10, h.target), optional 8 h.expiry,
           optional 7 h.lastStation]
      | none => s.refusedWith 0x1C .notFound (.circuit c) [(10, list.length)])

/-! ## Groups and presets -/

/-- GROUP_ADD and GROUP_REMOVE (R119, R120): the checks in order; the circuit appended at the end, or deleted with the members
behind it moved up; no hold touched. -/
def Obligations.GroupEdits : Prop :=
  (∀ (s : State) (group : Byte) (circuit : Half), s.powered = true →
    (s.sweeper.active = true → exec (.groupAdd group circuit) s =
      .next (s.refusedWith 0x20 .sweepActive (.group group.toNat) [])) ∧
    (s.sweeper.active = false → 63 < group.toNat ∨ 383 < circuit.toNat → exec (.groupAdd group circuit) s =
      .next (s.refusedWith 0x20 .badParameter (.group group.toNat) [])) ∧
    (s.sweeper.active = false → group.toNat ≤ 63 → circuit.toNat ≤ 383 →
      (circuit.toNat ∈ s.group group.toNat → exec (.groupAdd group circuit) s =
        .next (s.refusedWith 0x20 .duplicate (.group group.toNat) [])) ∧
      (circuit.toNat ∉ s.group group.toNat → 32 ≤ (s.group group.toNat).length → exec (.groupAdd group circuit) s =
        .next (s.refusedWith 0x20 .collectionFull (.group group.toNat) [])) ∧
      (circuit.toNat ∉ s.group group.toNat → (s.group group.toNat).length < 32 →
        ∃ t, exec (.groupAdd group circuit) s = .next t ∧
          s.Edited t [(6, group.toNat), (5, (s.group group.toNat).length), (6, (s.group group.toNat).length + 1)] ∧
          t.config = { s.config with groups := t.config.groups } ∧
          ∀ k, t.group k = if k = group.toNat then s.group k ++ [circuit.toNat] else s.group k))) ∧
  ∀ (s : State) (group : Byte) (circuit : Half), s.powered = true →
    (s.sweeper.active = true → exec (.groupRemove group circuit) s =
      .next (s.refusedWith 0x21 .sweepActive (.group group.toNat) [])) ∧
    (s.sweeper.active = false → 63 < group.toNat ∨ 383 < circuit.toNat → exec (.groupRemove group circuit) s =
      .next (s.refusedWith 0x21 .badParameter (.group group.toNat) [])) ∧
    (s.sweeper.active = false → group.toNat ≤ 63 → circuit.toNat ≤ 383 → circuit.toNat ∉ s.group group.toNat →
      exec (.groupRemove group circuit) s = .next (s.refusedWith 0x21 .notFound (.group group.toNat) [])) ∧
    ∀ before after, s.sweeper.active = false → group.toNat ≤ 63 → circuit.toNat ≤ 383 →
      s.group group.toNat = before ++ circuit.toNat :: after → circuit.toNat ∉ before →
      ∃ t, exec (.groupRemove group circuit) s = .next t ∧
        s.Edited t [(6, group.toNat), (5, before.length), (6, before.length + after.length)] ∧
        t.config = { s.config with groups := t.config.groups } ∧
        ∀ k, t.group k = if k = group.toNat then before ++ after else s.group k

/-- PRESET_SET_ENTRY, PRESET_REMOVE_ENTRY and PRESET_SET_ATTR (R123 to R125): the checks in order; an entry's level replaced in
place or a new entry appended, an entry deleted, or fade and zone replaced; no hold touched. Which bit says "new" is a free
value (log 6). -/
def Obligations.PresetEdits : Prop :=
  (∀ (s : State) (preset : Byte) (circuit level : Half), s.powered = true →
    (s.sweeper.active = true → exec (.presetSetEntry preset circuit level) s =
      .next (s.refusedWith 0x23 .sweepActive (.preset preset.toNat) [])) ∧
    (s.sweeper.active = false → 47 < preset.toNat ∨ 383 < circuit.toNat ∨ 1000 < level.toNat →
      exec (.presetSetEntry preset circuit level) s = .next (s.refusedWith 0x23 .badParameter (.preset preset.toNat) [])) ∧
    (s.sweeper.active = false → preset.toNat ≤ 47 → circuit.toNat ≤ 383 → level.toNat ≤ 1000 →
      (∀ before old after, (s.preset preset.toNat).entries = before ++ (circuit.toNat, old) :: after →
        (∀ x ∈ before, x.1 ≠ circuit.toNat) → ∃ t, exec (.presetSetEntry preset circuit level) s = .next t ∧
          s.Edited t [(6, preset.toNat), (6, before.length), (7, (s.preset preset.toNat).entries.length),
            newEntryMark false] ∧
          t.config = { s.config with presets := t.config.presets } ∧
          ∀ p, t.preset p = if p = preset.toNat then
            { s.preset p with entries := before ++ (circuit.toNat, level.toNat) :: after } else s.preset p) ∧
      ((∀ x ∈ (s.preset preset.toNat).entries, x.1 ≠ circuit.toNat) → 64 ≤ (s.preset preset.toNat).entries.length →
        exec (.presetSetEntry preset circuit level) s =
          .next (s.refusedWith 0x23 .collectionFull (.preset preset.toNat) [])) ∧
      ((∀ x ∈ (s.preset preset.toNat).entries, x.1 ≠ circuit.toNat) → (s.preset preset.toNat).entries.length < 64 →
        ∃ t, exec (.presetSetEntry preset circuit level) s = .next t ∧
          s.Edited t [(6, preset.toNat), (6, (s.preset preset.toNat).entries.length),
            (7, (s.preset preset.toNat).entries.length + 1), newEntryMark true] ∧
          t.config = { s.config with presets := t.config.presets } ∧
          ∀ p, t.preset p = if p = preset.toNat then
            { s.preset p with entries := (s.preset p).entries ++ [(circuit.toNat, level.toNat)] } else s.preset p))) ∧
  (∀ (s : State) (preset : Byte) (circuit : Half), s.powered = true →
    (s.sweeper.active = true → exec (.presetRemoveEntry preset circuit) s =
      .next (s.refusedWith 0x24 .sweepActive (.preset preset.toNat) [])) ∧
    (s.sweeper.active = false → 47 < preset.toNat ∨ 383 < circuit.toNat →
      exec (.presetRemoveEntry preset circuit) s = .next (s.refusedWith 0x24 .badParameter (.preset preset.toNat) [])) ∧
    (s.sweeper.active = false → preset.toNat ≤ 47 → circuit.toNat ≤ 383 →
      (∀ x ∈ (s.preset preset.toNat).entries, x.1 ≠ circuit.toNat) →
      exec (.presetRemoveEntry preset circuit) s = .next (s.refusedWith 0x24 .notFound (.preset preset.toNat) [])) ∧
    ∀ before old after, s.sweeper.active = false → preset.toNat ≤ 47 → circuit.toNat ≤ 383 →
      (s.preset preset.toNat).entries = before ++ (circuit.toNat, old) :: after → (∀ x ∈ before, x.1 ≠ circuit.toNat) →
      ∃ t, exec (.presetRemoveEntry preset circuit) s = .next t ∧
        s.Edited t [(6, preset.toNat), (6, before.length), (7, before.length + after.length)] ∧
        t.config = { s.config with presets := t.config.presets } ∧
        ∀ p, t.preset p = if p = preset.toNat then { s.preset p with entries := before ++ after } else s.preset p) ∧
  ∀ (s : State) (preset : Byte) (fade : Half) (zone : Byte), s.powered = true →
    (s.sweeper.active = true → exec (.presetSetAttr preset fade zone) s =
      .next (s.refusedWith 0x25 .sweepActive (.preset preset.toNat) [])) ∧
    (s.sweeper.active = false → 47 < preset.toNat ∨ 600 < fade.toNat ∨ 15 < zone.toNat →
      exec (.presetSetAttr preset fade zone) s = .next (s.refusedWith 0x25 .badParameter (.preset preset.toNat) [])) ∧
    (s.sweeper.active = false → preset.toNat ≤ 47 → fade.toNat ≤ 600 → zone.toNat ≤ 15 →
      ∃ t, exec (.presetSetAttr preset fade zone) s = .next t ∧
        s.Edited t [(6, preset.toNat), (10, (s.preset preset.toNat).fade), (4, (s.preset preset.toNat).zone)] ∧
        t.config = { s.config with presets := t.config.presets } ∧
        ∀ p, t.preset p = if p = preset.toNat then { s.preset p with fade := fade.toNat, zone := zone.toNat } else s.preset p)

/-! ## Console -/

/-- PLACE_HOLD and RECALL_PRESET (R91, R129, R131): the checks in order; an accepted command places on every target circuit,
in the channel's or the preset's name, with no last station and no expiry. The target circuits are distinct in every state
that keeps the list and mark laws (TargetCircuits). -/
def Obligations.ConsolePlacements : Prop :=
  (∀ (s : State) (channel targetKind : Byte) (number level fade : Half) (priority : Byte), s.powered = true →
    (targetKind.toNat ≠ 1 → targetKind.toNat ≠ 2 → exec (.placeHold channel targetKind number level fade priority) s =
      .next (s.refusedWith 0x28 .badParameter .none [])) ∧
    ∀ target ref, (targetKind.toNat = 1 ∧ target = .circuit number.toNat ∧ ref = .circuit number.toNat ∨
        targetKind.toNat = 2 ∧ target = .group number.toNat ∧ ref = .group number.toNat) →
      (7 < channel.toNat ∨ target.fits = false ∨ 1000 < level.toNat ∨ 600 < fade.toNat ∨ priority.toNat = 0 ∨
          7 < priority.toNat →
        exec (.placeHold channel targetKind number level fade priority) s =
          .next (s.refusedWith 0x28 .badParameter ref [])) ∧
      (channel.toNat ≤ 7 → target.fits = true → level.toNat ≤ 1000 → fade.toNat ≤ 600 → 1 ≤ priority.toNat →
        priority.toNat ≤ 7 →
        let targets := s.targets target level.toNat
        let created := lacking s.holds (.console channel.toNat) targets
        (targets = [] → exec (.placeHold channel targetKind number level fade priority) s =
          .next (s.refusedWith 0x28 (if targetKind.toNat = 1 then .circuitRetired else .noTarget) ref [])) ∧
        (targets ≠ [] → freeRecords s.holds < created →
          exec (.placeHold channel targetKind number level fade priority) s =
            .next (s.refusedWith 0x28 .poolFull ref [])) ∧
        (targets ≠ [] → created ≤ freeRecords s.holds → (targets.map Prod.fst).Nodup →
          ∃ t, exec (.placeHold channel targetKind number level fade priority) s = .next t ∧
            s.PlacedOn t
              { originator := .console channel.toNat, fade := fade.toNat, priority := priority.toNat, zone := none,
                kind := .latch, lastStation := none, expiry := none, parked := false } targets ∧
            s.SameButPending t ∧ t.port = (s.reported [(6, created), (6, targets.length - created)]).port ∧
            t = { s with stations := t.stations, holds := t.holds, port := t.port }))) ∧
  ∀ (s : State) (preset priority : Byte), s.powered = true →
    (47 < preset.toNat ∨ priority.toNat = 0 ∨ 7 < priority.toNat →
      exec (.recallPreset preset priority) s = .next (s.refusedWith 0x2A .badParameter (.preset preset.toNat) [])) ∧
    (preset.toNat ≤ 47 → 1 ≤ priority.toNat → priority.toNat ≤ 7 →
      let targets := s.targets (.preset preset.toNat) 0
      let created := lacking s.holds (.preset preset.toNat) targets
      (targets = [] → exec (.recallPreset preset priority) s =
        .next (s.refusedWith 0x2A .noTarget (.preset preset.toNat) [])) ∧
      (targets ≠ [] → (∃ h ∈ s.holds, h.originator = .preset preset.toNat ∧ h.state = .fading) →
        exec (.recallPreset preset priority) s = .next (s.refusedWith 0x2A .presetBusy (.preset preset.toNat) [])) ∧
      ((∀ h ∈ s.holds, h.originator = .preset preset.toNat → h.state ≠ .fading) →
        (targets ≠ [] → freeRecords s.holds < created → exec (.recallPreset preset priority) s =
          .next (s.refusedWith 0x2A .poolFull (.preset preset.toNat) [])) ∧
        (targets ≠ [] → created ≤ freeRecords s.holds → (targets.map Prod.fst).Nodup →
          ∃ t, exec (.recallPreset preset priority) s = .next t ∧
            s.PlacedOn t
              { originator := .preset preset.toNat, fade := (s.preset preset.toNat).fade, priority := priority.toNat,
                zone := some (s.preset preset.toNat).zone, kind := .latch, lastStation := none, expiry := none,
                parked := s.zoneClosed (s.preset preset.toNat).zone } targets ∧
            s.SameButPending t ∧ t.port = (s.reported [(7, created), (7, targets.length - created)]).port ∧
            t = { s with stations := t.stations, holds := t.holds, port := t.port })))

/-- RELEASE_HOLD, RELEASE_PRESET and RELEASE_OWNER (R92, R93, R132): the live holds selected are released, their number is
reported, and nothing else but the images changes. A release (R77) removes a hold that is parked, at level 0 or of placed fade
0, and sets any other fading out over its placed fade. -/
def Obligations.ReleasesFadeOut : Prop :=
  (∀ (s : State) (channel targetKind : Byte) (number : Half), s.powered = true →
    (targetKind.toNat ≠ 1 → targetKind.toNat ≠ 2 → exec (.releaseHold channel targetKind number) s =
      .next (s.refusedWith 0x29 .badParameter .none [])) ∧
    ∀ target ref, (targetKind.toNat = 1 ∧ target = .circuit number.toNat ∧ ref = .circuit number.toNat ∨
        targetKind.toNat = 2 ∧ target = .group number.toNat ∧ ref = .group number.toNat) →
      (7 < channel.toNat ∨ target.fits = false → exec (.releaseHold channel targetKind number) s =
        .next (s.refusedWith 0x29 .badParameter ref [])) ∧
      (channel.toNat ≤ 7 → target.fits = true → ∃ t, exec (.releaseHold channel targetKind number) s = .next t ∧
        let p := fun h : Hold => h.originator == .console channel.toNat &&
          (s.mappedTargets target 0).any (fun x => x.1 == h.circuit)
        t.holds = releaseWhere p s.holds ∧ s.SameButPending t ∧
          t.port = (s.reported [(6, (s.holds.filter (fun h => h.isLive && p h)).length)]).port ∧
          t = { s with stations := t.stations, holds := t.holds, port := t.port })) ∧
  (∀ (s : State) (c : Instr) (n : Nat) (o : Originator), s.powered = true →
    ((∃ p : Byte, c = .releasePreset p ∧ n = p.toNat ∧ n ≤ 47 ∧ o = .preset n) ∨
      ∃ i : Half, c = .releaseOwner i ∧ n = i.toNat ∧ n ≤ 1023 ∧ o = .binding n) →
    ∃ t, exec c s = .next t ∧ t.holds = releaseWhere (fun h => h.originator == o) s.holds ∧ s.SameButPending t ∧
      t.port = (s.reported [(10, (s.holds.filter (fun h => h.isLive && h.originator == o)).length)]).port ∧
      t = { s with stations := t.stations, holds := t.holds, port := t.port }) ∧
  (∀ (s : State) (p : Byte), s.powered = true → 47 < p.toNat →
    exec (.releasePreset p) s = .next (s.refusedWith 0x2B .badParameter (.preset p.toNat) [])) ∧
  (∀ (s : State) (i : Half), s.powered = true → 1023 < i.toNat →
    exec (.releaseOwner i) s = .next (s.refusedWith 0x2C .badParameter (.binding i.toNat) [])) ∧
  ∀ (p : Hold → Bool) (pool : List Hold),
    releaseWhere p pool = pool.filterMap fun h =>
      if h.state = .fadingOut ∨ p h = false then some h
      else if h.parked = true ∨ h.level = 0 ∨ h.placedFade = 0 then none
      else some { h with state := .fadingOut, start := h.level, target := 0, length := 4 * h.placedFade, elapsed := 0,
                         ramp := none, expiry := none }

/-! ## Modes, zones, panic -/

/-- SET_MODE (R138, R136): the five checks in order; a request for the current mode changes nothing, its data being a free value
(log 7); any other changes the mode with cause SET_MODE. -/
def Obligations.SetModeFollowsTheTable : Prop :=
  ∀ (s : State) (request : Byte), s.powered = true →
    (3 < request.toNat → exec (.setMode request) s = .next (s.refusedWith 0x30 .badParameter .none [])) ∧
    (request.toNat ≤ 3 → s.mode = .panic ∨ s.mode = .show ∧ request.toNat = 0 ∨ s.mode = .work ∧ request.toNat = 2 →
      exec (.setMode request) s = .next (s.refusedWith 0x30 .modeConflict .none [])) ∧
    (request.toNat = 2 → s.mode ≠ .panic → s.mode ≠ .work → s.lock = .free →
      exec (.setMode request) s = .next (s.refusedWith 0x30 .lockState .none [])) ∧
    ∀ m : Mode, m.code = request.toNat → request.toNat ≤ 3 → s.mode ≠ .panic → ¬ (s.mode = .show ∧ request.toNat = 0) →
      ¬ (s.mode = .work ∧ request.toNat = 2) → (request.toNat = 2 → s.lock ≠ .free) →
      (m = s.mode → ∃ fields, (fields = [] ∨ fields = [(3, m.code), (3, m.code)]) ∧
        exec (.setMode request) s = .next (s.reported fields)) ∧
      (m ≠ s.mode → ∃ t, exec (.setMode request) s = .next t ∧ s.ModeChanged t m .setMode ∧
        t.port = (s.reported [(3, s.mode.code), (3, m.code)]).port ∧
        t = { s with stations := t.stations, holds := t.holds, mode := t.mode, events := t.events, port := t.port })

/-- SET_ZONE_MINIMUM and SET_HOLDOVER_LEVEL (R135, R140): one entry replaced, with a parking pass when it is of the current mode;
the holdover level replaced. The value before is reported. -/
def Obligations.ZoneAndHoldoverWrites : Prop :=
  (∀ (s : State) (mode zone value : Byte), s.powered = true →
    (4 < mode.toNat ∨ 15 < zone.toNat ∨ 4 < value.toNat → exec (.setZoneMinimum mode zone value) s =
      .next (s.refusedWith 0x31 .badParameter .none [])) ∧
    ∀ m v, m.code = mode.toNat → mode.toNat ≤ 4 → zone.toNat ≤ 15 → zoneMinimumOf value.toNat = some v →
      ∃ t, exec (.setZoneMinimum mode zone value) s = .next t ∧
        (∀ n z, n ≠ Mode.panic → t.config.zoneMinimums.get (.atLeast 0) (zoneIndex n z) =
          if n = m ∧ z = zone.toNat then v else s.config.zoneMinimums.get (.atLeast 0) (zoneIndex n z)) ∧
        t.holds = (if m = s.mode then s.holds.map (fun h => { h with parked := t.parks h.zone }) else s.holds) ∧
        s.SameButPending t ∧
        t.port = (s.reported [(3, mode.toNat), (4, zone.toNat),
          (3, (s.config.zoneMinimums.get (.atLeast 0) (zoneIndex m zone.toNat)).code)]).port ∧
        t = { s with config := { s.config with zoneMinimums := t.config.zoneMinimums }, stations := t.stations,
                     holds := t.holds, port := t.port }) ∧
  ∀ (s : State) (level : Half), s.powered = true →
    (1000 < level.toNat → exec (.setHoldoverLevel level) s = .next (s.refusedWith 0x32 .badParameter .none [])) ∧
    (level.toNat ≤ 1000 → ∃ t, exec (.setHoldoverLevel level) s = .next t ∧ s.SameButPending t ∧
      t = { s with config := { s.config with holdoverLevel := level.toNat }, stations := t.stations,
                   port := (s.reported [(10, s.config.holdoverLevel)]).port })

/-- Panic (R141 to R143, R146). The PANIC command and the panic input enter PANIC from any other mode and change no mode from
PANIC; CLEAR_PANIC leaves it for OPEN unless the panic input latch is active; an input that becomes inactive changes the latch
alone. -/
def Obligations.PanicEntryAndExit : Prop :=
  (∀ s : State, s.powered = true → s.mode ≠ .panic → ∃ t, exec .panic s = .next t ∧
    s.ModeChanged t .panic .panicCommand ∧ t.port = (s.reported [(3, s.mode.code)]).port ∧
    t = { s with stations := t.stations, holds := t.holds, mode := t.mode, events := t.events, port := t.port }) ∧
  (∀ s : State, s.powered = true → s.mode = .panic → ∃ t, exec .panic s = .next t ∧ s.SameButPending t ∧
    t = { s with stations := t.stations, port := (s.reported [(3, 5)]).port }) ∧
  (∀ s : State, s.powered = true → s.mode ≠ .panic ∨ s.panicLatch = true →
    exec .clearPanic s = .next (s.refusedWith 0x37 .modeConflict .none [])) ∧
  (∀ s : State, s.powered = true → s.mode = .panic → s.panicLatch = false → ∃ t, exec .clearPanic s = .next t ∧
    s.ModeChanged t .openHouse .clearPanic ∧ t.port = (s.reported []).port ∧
    t = { s with stations := t.stations, holds := t.holds, mode := t.mode, events := t.events, port := t.port }) ∧
  (∀ s : State, s.powered = true → ∃ t, exec .panicInputActive s = .next t ∧ t.panicLatch = true ∧ t.mode = .panic ∧
    (s.mode ≠ .panic → s.ModeChanged t .panic .panicInput) ∧
    (s.mode = .panic → t.holds = s.holds ∧ t.events = s.events ∧ s.SameButPending t) ∧
    t = { s with stations := t.stations, holds := t.holds, mode := t.mode, panicLatch := true, events := t.events }) ∧
  ∀ s : State, s.powered = true → exec .panicInputInactive s = .next { s with panicLatch := false }

/-! ## The show lock -/

/-- LOCK_TAKE (R148): the two refusals, which change nothing but the reports; otherwise the lock becomes FIRST with the period, last
toggle 0 and the period start at the moment of the command, and nothing else changes. -/
def Obligations.LockTakeStartsTheLock : Prop :=
  ∀ (s : State) (period : Byte), s.powered = true →
    (period.toNat < 5 ∨ 80 < period.toNat →
      exec (.lockTake period) s = .next (s.refusedWith 0x33 .badParameter .none [])) ∧
    (5 ≤ period.toNat → period.toNat ≤ 80 → s.lock ≠ .free →
      exec (.lockTake period) s = .next (s.refusedWith 0x33 .lockState .none [])) ∧
    (5 ≤ period.toNat → period.toNat ≤ 80 → s.lock = .free → exec (.lockTake period) s =
      .next { s.reported [(2, 1), (7, period.toNat)] with
        lock := .first { period := period.toNat, lastToggle := false, since := s.clock } })

/-- LOCK_RENEW (R149, R150): BAD_PARAMETER; NOT_HELD; SAME_TOGGLE, which changes nothing; a valid renewal in FIRST and in
the open half of WINDOWED; in the closed half the lock lapses EARLY and the command is refused. Elapsed time is counted on
the model's clock (log 3), its rounding in the result being a free value (log 5). The model's own too: a renewal that comes late,
with no expiry taken, is valid (log 17), and the reasons NOT_HELD, SAME_TOGGLE and EARLY are 0, 1 and 2 in two bits (log 11). -/
def Obligations.LockRenewal : Prop :=
  ∀ (s : State) (toggle : Byte), s.powered = true →
    (1 < toggle.toNat → exec (.lockRenew toggle) s = .next (s.refusedWith 0x34 .badParameter .none [])) ∧
    (toggle.toNat ≤ 1 → s.lock = .free →
      exec (.lockRenew toggle) s = .next (s.refusedWith 0x34 .lockState .none [(2, 0)])) ∧
    ∀ h, s.lock = .first h ∨ s.lock = .windowed h →
      (toggle.toNat = h.lastToggle.toNat →
        exec (.lockRenew toggle) s = .next (s.refusedWith 0x34 .lockState .none [(2, 1)])) ∧
      (toggle.toNat ≤ 1 → toggle.toNat ≠ h.lastToggle.toNat →
        (s.lock = .first h ∨ 40 * h.period ≤ s.clock - h.since →
          exec (.lockRenew toggle) s = .next
            { s.reported [(2, 2), (1, toggle.toNat), (10, tenMilliseconds (s.clock - h.since))] with
              lock := .windowed { h with lastToggle := toggle.toNat == 1, since := s.clock } }) ∧
        (s.lock = .windowed h → s.clock - h.since < 40 * h.period →
          ∃ t, exec (.lockRenew toggle) s = .next t ∧ t.lock = .free ∧
            t.port = (s.refusedWith 0x34 .lockState .none [(2, 2)]).port ∧
            t.sense = (s.refusedWith 0x34 .lockState .none []).sense ∧
            (s.mode = .show → s.ModeChanged t .holdover .early) ∧
            (s.mode ≠ .show → t.mode = s.mode ∧ t.holds = s.holds ∧ s.SameButPending t ∧
              t.events = (s.latchMode s.mode .early).events) ∧
            t = { s with stations := t.stations, holds := t.holds, mode := t.mode, lock := t.lock, events := t.events,
                         port := t.port, sense := t.sense }))

/-- LOCK_GIVE and the expiry of the lock timer (R147, R151 to R153): a lock given up is no lapse, and is refused in SHOW; an expiry,
once the period of P × 100 ms has run out, frees a held lock with a MODE event of cause LATE, and takes the mode from SHOW to
HOLDOVER; one that arrived with a renewal taken first is not taken. Time is counted on the model's clock (log 3); before the period
has run out, or with the lock FREE, there is no expiry to take (the model's reading, log 8). A give is judged by
the mode it finds when taken, HOLDOVER after an expiry taken first in SHOW (the model's choice, log 22). -/
def Obligations.LockGiveAndLapse : Prop :=
  (∀ s : State, s.powered = true → s.mode = .show →
    exec .lockGive s = .next (s.refusedWith 0x35 .modeConflict .none [])) ∧
  (∀ s : State, s.powered = true → s.mode ≠ .show →
    exec .lockGive s = .next { s.reported [(2, s.lock.code)] with lock := .free }) ∧
  (∀ (s : State) (h : LockHeld), s.powered = true → s.lock = .first h ∨ s.lock = .windowed h →
    (h.since + 80 * h.period ≤ s.clock → ∃ t, exec .lockTimerExpiry s = .next t ∧ t.lock = .free ∧
      (s.mode = .show → s.ModeChanged t .holdover .late) ∧
      (s.mode ≠ .show → t.mode = s.mode ∧ t.holds = s.holds ∧ s.SameButPending t ∧
        t.events = (s.latchMode s.mode .late).events) ∧
      t = { s with stations := t.stations, holds := t.holds, mode := t.mode, lock := t.lock, events := t.events }) ∧
    (s.clock < h.since + 80 * h.period → exec .lockTimerExpiry s = .next s)) ∧
  (∀ (s t : State) (h : LockHeld) (toggle : Byte), s.powered = true → s.lock = .first h ∨ s.lock = .windowed h →
    0 < h.period → exec (.lockRenew toggle) s = .next t → t.port.result.code = .ok → exec .lockTimerExpiry t = .next t) ∧
  ∀ s : State, s.powered = true → s.lock = .free → exec .lockTimerExpiry s = .next s

/-! ## Retargeting and the store -/

/-- RETARGET (R170, R171, R176): the checks in order. A fresh issue starts a sweep at BINDINGS 0, marks the old circuit, and moves
its holds behind the new circuit's own, removing those whose originator already holds the new circuit; a re-issue resumes an
ABORTED sweep of the same circuits at its position and moves no hold. Which bit marks a fresh issue is a free value (log 6). -/
def Obligations.RetargetIssues : Prop :=
  ∀ (s : State) (oldCircuit newCircuit : Half), s.powered = true →
    let old := oldCircuit.toNat
    let new := newCircuit.toNat
    (s.sweeper.active = true →
      exec (.retarget oldCircuit newCircuit) s = .next (s.refusedWith 0x38 .sweepActive (.circuit old) [])) ∧
    (s.sweeper.active = false → 383 < old ∨ 383 < new ∨ old = new →
      exec (.retarget oldCircuit newCircuit) s = .next (s.refusedWith 0x38 .badParameter (.circuit old) [])) ∧
    (s.sweeper.active = false → old ≤ 383 → new ≤ 383 → old ≠ new → (s.attrs new).retired = true →
      exec (.retarget oldCircuit newCircuit) s = .next (s.refusedWith 0x38 .circuitRetired (.circuit new) [])) ∧
    (s.sweeper.active = false → old ≤ 383 → new ≤ 383 → old ≠ new → (s.attrs new).retired = false →
      (∀ pos, s.sweeper.state ≠ .aborted ⟨old, new, pos⟩) →
      ∃ t, exec (.retarget oldCircuit newCircuit) s = .next t ∧
        t.sweeper = { state := .sweeping ⟨old, new, ⟨.bindings, 0⟩⟩, changed := 0 } ∧
        (∀ c, t.circuit c = if c = old then { s.circuit c with moving := some new } else s.circuit c) ∧
        (let moved := (contributions s.holds old).filter fun h => !(contributions s.holds new).any fun k => k.originator == h.originator
         contributions t.holds old = [] ∧
          contributions t.holds new = contributions s.holds new ++ moved.map (fun h => { h with circuit := new }) ∧
          (∀ c, c ≠ old → c ≠ new → contributions t.holds c = contributions s.holds c) ∧
          t.port = (s.reported [(9, old), (9, new), freshMark true, (10, moved.length),
            (10, (contributions s.holds old).length - moved.length)]).port) ∧
        s.SameButPending t ∧
        t = { s with circuits := t.circuits, holds := t.holds, sweeper := t.sweeper, stations := t.stations, port := t.port }) ∧
    ∀ pos, old ≤ 383 → new ≤ 383 → old ≠ new → (s.attrs new).retired = false →
      s.sweeper.state = .aborted ⟨old, new, pos⟩ →
      ∃ t, exec (.retarget oldCircuit newCircuit) s = .next t ∧
        t.sweeper = { state := .sweeping ⟨old, new, pos⟩, changed := 0 } ∧
        (∀ c, t.circuit c = if c = old then { s.circuit c with moving := some new } else s.circuit c) ∧
        t.port = (s.reported [(9, old), (9, new), freshMark false, (12, pos.code), (10, 0), (10, 0)]).port ∧
        s.SameButPending t ∧
        t = { s with circuits := t.circuits, sweeper := t.sweeper, stations := t.stations, port := t.port }

/-- One visit of a sweep, and its abort (R172, R173, R175). The record at the position is rewritten, and counted, exactly
when it refers to the old circuit; the position moves on, and after PRESETS 47 the sweep ends with its mark cleared and a
SWEEP event. SWEEP_ABORT keeps the position and writes it into the sense record. With no sweep in flight there is no visit to
take (the model's reading, log 8). -/
def Obligations.SweepVisitsAndAbort : Prop :=
  (∀ (s : State) (job : SweepJob), s.powered = true → s.sweeper.state = .sweeping job →
    ∃ t, exec .sweepVisit s = .next t ∧
      (∀ i, i < 1024 → t.binding i =
        if job.position = ⟨.bindings, i⟩ ∧ (s.binding i).present = true ∧ (s.binding i).target = .circuit job.oldCircuit then
          { s.binding i with target := .circuit job.newCircuit } else s.binding i) ∧
      (∀ g, g < 64 → t.group g =
        if job.position = ⟨.groups, g⟩ then
          if job.newCircuit ∈ s.group g then (s.group g).filter (fun c => c != job.oldCircuit)
          else (s.group g).map (fun c => if c = job.oldCircuit then job.newCircuit else c)
        else s.group g) ∧
      (∀ p, p < 48 → t.preset p =
        if job.position = ⟨.presets, p⟩ then
          { s.preset p with entries :=
              if (s.preset p).entries.any (fun x => x.1 == job.newCircuit) then
                (s.preset p).entries.filter (fun x => x.1 != job.oldCircuit)
              else (s.preset p).entries.map (fun x => if x.1 = job.oldCircuit then (job.newCircuit, x.2) else x) }
        else s.preset p) ∧
      (let counted := (s.visitCounts job).toNat
       match job.position.next with
       | some pos => t.sweeper = { state := .sweeping { job with position := pos }, changed := s.sweeper.changed + counted } ∧
          t.circuits = s.circuits ∧ t.events = s.events
       | none => t.sweeper = { state := .idle, changed := s.sweeper.changed + counted } ∧
          (∀ c, t.circuit c = if c = job.oldCircuit then { s.circuit c with moving := none } else s.circuit c) ∧
          t.events = (s.latchSweep .done job (s.sweeper.changed + counted)).events) ∧
      s.SameButPending t ∧
      t = { s with config := { s.config with bindings := t.config.bindings, groups := t.config.groups,
                                             presets := t.config.presets },
                   circuits := t.circuits, events := t.events, sweeper := t.sweeper, stations := t.stations }) ∧
  (∀ s : State, s.powered = true → s.sweeper.active = false → exec .sweepVisit s = .next s ∧
    exec .sweepAbort s = .next (s.refusedWith 0x39 .notFound .none [])) ∧
  ∀ (s : State) (job : SweepJob), s.powered = true → s.sweeper.state = .sweeping job →
    ∃ t, exec .sweepAbort s = .next t ∧ t.sweeper = { s.sweeper with state := .aborted job } ∧
      (∀ c, t.circuit c = if c = job.oldCircuit then { s.circuit c with moving := none } else s.circuit c) ∧
      t.events = (s.latchSweep .aborted job s.sweeper.changed).events ∧
      t.sense = { valid := true, command := 0x39, result := .ok, ref := .sweepPosition job.position, refValid := true,
                  earlierUnread := s.sense.valid } ∧
      t.port = (s.reported [(9, job.oldCircuit), (9, job.newCircuit), (12, job.position.code),
        (11, s.sweeper.changed)]).port ∧
      s.SameButPending t ∧
      t = { s with circuits := t.circuits, events := t.events, sweeper := t.sweeper, stations := t.stations, port := t.port,
                   sense := t.sense }

/-- SAVE, the end of its write, and a loss of power (R193, R194): the snapshot is the live configuration as it stands; a
second SAVE is refused meanwhile; completion makes the snapshot the image; an interrupted write leaves the store INVALID. The
moment a write began is one of the model's clock (log 3), a completion comes whenever it is commanded (log 17), and with no
write in progress there is none to take (log 8); a part without power keeps what it held (log 9). -/
def Obligations.SaveWritesTheStore : Prop :=
  (∀ s : State, s.powered = true → s.store.busy = true →
    exec .save s = .next (s.refusedWith 0x3A .storeBusy .none [])) ∧
  (∀ s : State, s.powered = true → s.store.busy = false →
    exec .save s = .next { s.reported [(2, s.store.code)] with store := .writing s.config s.clock }) ∧
  (∀ (s : State) (snapshot : Configuration) (since : Nat), s.powered = true → s.store = .writing snapshot since →
    exec .saveCompletion s = .next { s with store := .valid snapshot, events := (s.latchStore .saved).events }) ∧
  (∀ s : State, s.powered = true → s.store.busy = false → exec .saveCompletion s = .next s) ∧
  (∀ (s : State) (snapshot : Configuration) (since : Nat), s.store = .writing snapshot since →
    exec .powerLoss s = .next { s with powered := false, store := .invalid }) ∧
  ∀ s : State, s.store.busy = false → exec .powerLoss s = .next { s with powered := false }

/-! ## Reporting and restart -/

/-- READ_SENSE, READ_REFUSAL, READ_EVENTS and EVENT_MASK (R185, R186, R188, R189): what stands is returned; the sense and refusal
records are cleared, the flags are cleared with the details kept, the mask is replaced. Of the sense record's reference the low ten
bits are a free value for a number above 1023 (log 4). -/
def Obligations.ReportReads : Prop :=
  (∀ s : State, s.powered = true → exec .readSense s = .next
    { s.reported [yesNo s.sense.valid, (8, s.sense.command.toNat), (4, s.sense.result.code), (3, s.sense.ref.kindCode),
        (12, s.sense.ref.value), yesNo s.sense.refValid, yesNo s.sense.earlierUnread] with
      sense := SenseRecord.cleared }) ∧
  (∀ s : State, s.powered = true → exec .readRefusal s = .next
    { s.reported [yesNo s.refusal.valid, (7, s.refusal.station), (4, s.refusal.control), optional 10 s.refusal.binding,
        (4, s.refusal.code.code), yesNo s.refusal.earlierUnread] with
      refusal := RefusalRecord.cleared }) ∧
  (∀ s : State, s.powered = true → exec .readEvents s = .next
    { s.reported (s.events.flags.fields ++ s.events.details.fields) with
      events := { s.events with flags := EventGroups.all false } }) ∧
  ∀ (s : State) (station press circuit rack mode sweep store : Byte), s.powered = true →
    exec (.eventMask station press circuit rack mode sweep store) s = .next
      { s.reported s.mask.fields with
        mask := { station := station != 0, press := press != 0, circuit := circuit != 0, rack := rack != 0,
                  mode := mode != 0, sweep := sweep != 0, store := store != 0 } }

/-- RESTART (R191, R156, R168, R177): the live part starts afresh, the configuration, the store, the panic input latch and the
event mask are kept, a sweep in flight is aborted with its position in the sense record, and one MODE event stands. -/
def Obligations.RestartKeepsConfiguration : Prop :=
  ∀ s : State, s.powered = true → ∃ t, exec .restart s = .next t ∧ t.config = s.config ∧ t.store = s.store ∧
    t.panicLatch = s.panicLatch ∧ t.mask = s.mask ∧ t.clock = s.clock ∧ t.powered = true ∧ t.pending = s.pending ∧
    t.mode = (if s.panicLatch then Mode.panic else Mode.openHouse) ∧ t.lock = .free ∧ t.holds = [] ∧ t.queue = [] ∧
    t.current = none ∧ (∀ n, t.live n = StationLive.fresh (s.slot n).enrolled) ∧
    (∀ loop, t.loopState loop = LoopState.fresh) ∧ (∀ c, t.circuit c = CircuitLive.clear) ∧
    (∀ r, t.rack r = Rack.fresh) ∧ t.rackInFlight = none ∧ t.timers = Timers.started s.clock ∧
    t.refusal = RefusalRecord.cleared ∧
    t.events = { flags := { EventGroups.all false with mode := true },
                 details := { EventDetails.zero with mode := t.mode, cause := .restart } } ∧
    t.port = (s.reported [(3, t.mode.code), yesNo s.sweeper.active]).port ∧
    (∀ job, s.sweeper.state = .sweeping job → t.sweeper = { s.sweeper with state := .aborted job } ∧
      t.sense = { valid := true, command := 0x44, result := .ok, ref := .sweepPosition job.position, refValid := true,
                  earlierUnread := false }) ∧
    (s.sweeper.active = false → t.sweeper = s.sweeper ∧ t.sense = SenseRecord.cleared)

/-! ## The resolver -/

/-- A refused PRESS (R41, R52, R53): the entry leaves the queue, the refusal record is written, a PRESS event is latched, the
control joins the station's deny marks, and nothing else changes. The current entry is empty in every state between steps
(BoundsKept). With no entry of the edge at the head of the queue an event of
the resolver does nothing (the model's reading, log 8). -/
def Obligations.RefusedPress : Prop :=
  (∀ (s : State) (e : PressEntry) (rest : List PressEntry) (r : Refused), s.powered = true → s.current = none →
    s.queue = e :: rest → e.edge = .press → s.checkPress e = .error r → ∃ t, exec .pressEdge s = .next t ∧
      t.refusal = { valid := true, station := e.station, control := e.control, binding := r.index, code := r.code,
                    earlierUnread := s.refusal.valid } ∧
      t.events = (s.latchPress r.code).events ∧
      (∀ n, n < 128 → t.live n = if n = e.station then
        { s.live n with deny := (s.live n).deny ||| BitVec.ofNat 16 (2 ^ e.control) } else s.live n) ∧
      t = { s with queue := rest, stations := t.stations, refusal := t.refusal, events := t.events }) ∧
  (∀ (s : State) (e : PressEntry) (rest : List PressEntry), s.powered = true → s.current = none → s.queue = e :: rest →
    (e.edge = .press → exec .releaseEdge s = .next s) ∧ (e.edge = .release → exec .pressEdge s = .next s)) ∧
  ∀ s : State, s.powered = true → s.current = none → s.queue = [] →
    exec .pressEdge s = .next s ∧ exec .releaseEdge s = .next s

/-- The checks on a PRESS edge in the order of 3.2's table, and what each refuses with (R43 to R51). A TOGGLE's decision reads no
zone of a preset target (the model's reading of R125, log 21). -/
def Obligations.PressChecksInOrder : Prop :=
  ∀ (s : State) (e : PressEntry),
    let slot := s.slot e.station
    let i := slot.base + e.control
    let b := s.binding i
    let zone := s.zoneMinimum (s.pressZone b)
    let o := b.originator i
    let targets := s.targets b.target b.level
    (slot.enrolled = false → s.checkPress e = .error ⟨.stationUnenrolled, none⟩) ∧
    (slot.enrolled = true → slot.count ≤ e.control → s.checkPress e = .error ⟨.controlBeyondCount, none⟩) ∧
    (slot.enrolled = true → e.control < slot.count → 1023 < i → s.checkPress e = .error ⟨.bindingBeyondTable, none⟩) ∧
    (slot.enrolled = true → e.control < slot.count → i ≤ 1023 → b.present = false →
      s.checkPress e = .error ⟨.bindingAbsent, some i⟩) ∧
    (slot.enrolled = true → e.control < slot.count → i ≤ 1023 → b.present = true →
      (slot.authority < b.authority → s.checkPress e = .error ⟨.authorityLow, some i⟩) ∧
      (b.authority ≤ slot.authority → (zone = .closed ∨ ∃ a, zone = .atLeast a ∧ slot.authority < a.val) →
        s.checkPress e = .error ⟨.zoneLocked, some i⟩) ∧
      (b.authority ≤ slot.authority → (∃ a, zone = .atLeast a ∧ a.val ≤ slot.authority) →
        (b.kind = .holdToRun → (s.live e.station).presence ≠ .online →
          s.checkPress e = .error ⟨.stationSilent, some i⟩) ∧
        ((b.kind = .holdToRun → (s.live e.station).presence = .online) →
          (b.kind = .stationClear ∨ b.kind = .panic → s.checkPress e = .ok i) ∧
          (b.kind ≠ .stationClear → b.kind ≠ .panic →
            (targets = [] → s.checkPress e =
              .error ⟨(match b.target with | .circuit _ => .circuitRetired | _ => .noTarget), some i⟩) ∧
            (targets ≠ [] →
              let on := ∀ h ∈ s.holds, h.originator = o → h.state ≠ .fadingOut → ∀ x ∈ targets, x.1 ≠ h.circuit
              let recalls := (b.kind = .latchOn ∨ b.kind = .toggle ∧ on) ∧
                ∃ p, b.target = .preset p ∧ ∃ h ∈ s.holds, h.originator = .preset p ∧ h.state = .fading
              let full := b.kind ≠ .latchOff ∧ (b.kind = .toggle → on) ∧
                512 - s.holds.length < (targets.filter fun x =>
                  !s.holds.any fun h => h.circuit == x.1 && h.originator == o).length
              (recalls → s.checkPress e = .error ⟨.presetBusy, some i⟩) ∧
              (¬ recalls → full → s.checkPress e = .error ⟨.poolFull, some i⟩) ∧
              (¬ recalls → ¬ full → s.checkPress e = .ok i))))))

/-- An accepted LATCH_ON, HOLD_TO_RUN, or TOGGLE that switches on (R54, R56, R57, R59, R61): the originator's hold is placed on
every target circuit with the binding's values, or the preset's, for the pressing station, and unparked; a TOGGLE's decision reads
no zone of a preset target (the model's reading of R125, log 21). The target circuits are distinct in every state that keeps the
list and mark laws (TargetCircuits), and the current entry is empty between steps (BoundsKept). -/
def Obligations.PressPlacesHolds : Prop :=
  ∀ (s : State) (e : PressEntry) (rest : List PressEntry) (i : Nat), s.powered = true → s.current = none →
    s.queue = e :: rest → e.edge = .press → s.checkPress e = .ok i →
    let b := s.binding i
    let targets := s.targets b.target b.level
    (b.kind = .latchOn ∨ b.kind = .holdToRun ∨ b.kind = .toggle ∧ s.anyLiveOn (b.originator i) targets = false) →
    (targets.map Prod.fst).Nodup → ∃ t, exec .pressEdge s = .next t ∧
      s.PlacedOn t
        { originator := match b.target with
            | .preset p => .preset p
            | _ => .binding (b.owner.getD i)
          fade := match b.target with
            | .preset p => (s.preset p).fade
            | _ => b.fade
          priority := b.priority
          zone := some (match b.target with
            | .preset p => (s.preset p).zone
            | _ => b.zone)
          kind := if b.kind = .holdToRun then .momentary else .latch
          lastStation := some e.station
          expiry := b.expiry
          parked := false } targets ∧
      s.SameButPending t ∧ t = { s with queue := rest, stations := t.stations, holds := t.holds }

/-- An accepted LATCH_OFF, STATION_CLEAR, PANIC, or TOGGLE that switches off (R58, R60, R63, R64). A switching-off TOGGLE renews
a target's hold in expiry warning, in its own slot, and releases the other live ones; its decision reads no zone of a preset target
(the model's reading of R125, log 21). The current entry is empty in every state between steps (BoundsKept). -/
def Obligations.PressReleasesHolds : Prop :=
  ∀ (s : State) (e : PressEntry) (rest : List PressEntry) (i : Nat), s.powered = true → s.current = none →
    s.queue = e :: rest → e.edge = .press → s.checkPress e = .ok i →
    let b := s.binding i
    let o := b.originator i
    let targets := s.targets b.target b.level
    (b.kind = .latchOff → ∃ t, exec .pressEdge s = .next t ∧
      t.holds = releaseWhere (fun h => h.originator == o && targets.any (fun x => x.1 == h.circuit)) s.holds ∧
      s.SameButPending t ∧ t = { s with queue := rest, stations := t.stations, holds := t.holds }) ∧
    (b.kind = .stationClear → ∃ t, exec .pressEdge s = .next t ∧
      t.holds = releaseWhere (fun h => h.lastStation == some e.station) s.holds ∧
      s.SameButPending t ∧ t = { s with queue := rest, stations := t.stations, holds := t.holds }) ∧
    (b.kind = .panic → ∃ t, exec .pressEdge s = .next t ∧ t.mode = .panic ∧
      (s.mode ≠ .panic → s.ModeChanged t .panic .panicBinding) ∧
      (s.mode = .panic → t.holds = s.holds ∧ t.events = s.events ∧ s.SameButPending t) ∧
      t = { s with queue := rest, stations := t.stations, holds := t.holds, mode := t.mode, events := t.events }) ∧
    (b.kind = .toggle → s.anyLiveOn o targets = true → (targets.map Prod.fst).Nodup → ∃ t, exec .pressEdge s = .next t ∧
      (∀ x ∈ targets,
        if ∃ h ∈ contributions s.holds x.1, h.originator = o ∧ h.state ≠ .fadingOut ∧ h.expiry = some 1 then
          ∃ h, s.TouchedAt t o x.1 h ∧
            h.PlacedBy { originator := o, fade := s.pressFade b, priority := b.priority, zone := some (s.pressZone b),
                         kind := .latch, lastStation := some e.station, expiry := b.expiry, parked := false }
              x.1 x.2 (s.startLevel o x.1) ∧
            ∀ k, s.holds.find? (Hold.isOf x.1 o) = some k → h.slot = k.slot
        else contributions t.holds x.1 = releaseWhere (fun h => h.originator == o) (contributions s.holds x.1)) ∧
      (∀ c, (∀ x ∈ targets, x.1 ≠ c) → contributions t.holds c = contributions s.holds c) ∧
      s.SameButPending t ∧ t = { s with queue := rest, stations := t.stations, holds := t.holds })

/-- An accepted RAISE or LOWER (R62, R80): the originator's hold on every target circuit, created at the circuit's merged level
where there is none, is set ramping from the level it has. The current entry is empty in every state between steps
(BoundsKept). -/
def Obligations.PressStartsRamps : Prop :=
  ∀ (s : State) (e : PressEntry) (rest : List PressEntry) (i : Nat), s.powered = true → s.current = none →
    s.queue = e :: rest → e.edge = .press → s.checkPress e = .ok i →
    let b := s.binding i
    let targets := s.targets b.target b.level
    (b.kind = .raise ∨ b.kind = .lower) → (∀ p, b.target ≠ .preset p) → (targets.map Prod.fst).Nodup →
    ∃ t, exec .pressEdge s = .next t ∧
      s.RampedOn t
        { originator := .binding (b.owner.getD i), fade := b.fade, priority := b.priority, zone := some b.zone,
          kind := .latch, lastStation := some e.station, expiry := b.expiry, parked := false }
        (if b.kind = .raise then .up else .down) targets ∧
      s.SameButPending t ∧ t = { s with queue := rest, stations := t.stations, holds := t.holds }

/-- A RELEASE edge (R65 to R67, R82): dropped without trace when a check of 1 to 4 fails or its binding's kind has no release;
otherwise it releases the originator's momentary holds on the targets, or stops the originator's ramps there. The current entry is
empty in every state between steps (BoundsKept). -/
def Obligations.ReleaseEdges : Prop :=
  ∀ (s : State) (e : PressEntry) (rest : List PressEntry), s.powered = true → s.current = none → s.queue = e :: rest →
    e.edge = .release →
    (∀ r, s.findBinding e = .error r → exec .releaseEdge s = .next { s with queue := rest }) ∧
    ∀ i, s.findBinding e = .ok i →
      let b := s.binding i
      let on := fun h : Hold => h.originator == b.originator i &&
        (s.targets b.target b.level).any (fun x => x.1 == h.circuit)
      (b.kind = .holdToRun → ∃ t, exec .releaseEdge s = .next t ∧
        t.holds = releaseWhere (fun h => h.kind == .momentary && on h) s.holds ∧ s.SameButPending t ∧
        t = { s with queue := rest, stations := t.stations, holds := t.holds }) ∧
      (b.kind = .raise ∨ b.kind = .lower → ∃ t, exec .releaseEdge s = .next t ∧
        t.holds = s.holds.map (fun h => if on h = true ∧ h.state = .ramping then
          { h with state := .steady, target := h.level, start := h.level, length := 0, elapsed := 0, ramp := none }
          else h) ∧
        s.SameButPending t ∧ t = { s with queue := rest, stations := t.stations, holds := t.holds }) ∧
      (b.kind ≠ .holdToRun → b.kind ≠ .raise → b.kind ≠ .lower → exec .releaseEdge s = .next { s with queue := rest })

/-! ## Timers -/

/-- FADE_STEP (R75, R76, R78, R81): every unparked fade and ramp advances one step; a fade that reaches its length lands, and a
fade-out is removed there. The timer is next due 25 ms later, on the model's clock (log 3). The level of a fade is truncated toward its start, lies between its ends, and reaches its target
at the last step and not before. -/
def Obligations.FadeStepAdvancesHolds : Prop :=
  (∀ s : State, s.powered = true → ∃ t, exec .fadeStep s = .next t ∧ t.holds = s.holds.filterMap Hold.stepped ∧
    s.SameButPending t ∧
    t = { s with holds := t.holds, stations := t.stations,
                 timers := { s.timers with fadeStep := s.timers.fadeStep + 20 } }) ∧
  (∀ h : Hold, h.parked = true ∨ h.state = .steady → h.stepped = some h) ∧
  (∀ h : Hold, h.parked = false → h.state = .fading ∨ h.state = .fadingOut →
    (h.elapsed + 1 < h.length → h.stepped =
      some { h with elapsed := h.elapsed + 1, level := fadeLevel h.start h.target h.length (h.elapsed + 1) }) ∧
    (h.length ≤ h.elapsed + 1 → h.stepped = if h.state = .fading then
      some { h with elapsed := h.elapsed + 1, level := h.target, state := .steady } else none)) ∧
  (∀ (h : Hold) (r : Ramp), h.parked = false → h.state = .ramping → h.ramp = some r →
    (r.direction = .up → h.stepped = if 1000 ≤ h.level then some h else
      some { h with ramp := some { r with elapsed := r.elapsed + 1 },
                    level := min 1000 (r.start + 1000 * (r.elapsed + 1) / (4 * r.travel)) }) ∧
    (r.direction = .down → h.stepped = if h.level = 0 then some h else
      some { h with ramp := some { r with elapsed := r.elapsed + 1 },
                    level := r.start - 1000 * (r.elapsed + 1) / (4 * r.travel) })) ∧
  ∀ start target length t : Nat, 0 < length → t ≤ length →
    (start ≤ target → fadeLevel start target length t = start + (target - start) * t / length) ∧
    (target ≤ start → fadeLevel start target length t = start - (start - target) * t / length) ∧
    min start target ≤ fadeLevel start target length t ∧ fadeLevel start target length t ≤ max start target ∧
    (start ≠ target → (fadeLevel start target length t = target ↔ t = length))

/-- MINUTE_TIMER and FAULT_MINUTE_TIMER (R83, R84, R166): an unparked live hold's expiry is counted down, and at 0 the hold is
released; a fault count whose circuit was not reported loses 1, and every mark is cleared. Each timer is next due 60 s later, on the
model's clock (log 3). -/
def Obligations.MinuteTimers : Prop :=
  (∀ s : State, s.powered = true → ∃ t, exec .minuteTimer s = .next t ∧
    t.holds = s.holds.filterMap (fun h =>
      if h.parked = true ∨ h.state = .fadingOut then some h
      else match h.expiry with
        | none => some h
        | some e => if e ≤ 1 then { h with expiry := none }.released else some { h with expiry := some (e - 1) }) ∧
    s.SameButPending t ∧
    t = { s with holds := t.holds, stations := t.stations,
                 timers := { s.timers with minute := s.timers.minute + 48000 } }) ∧
  ∀ s : State, s.powered = true → ∃ t, exec .faultMinuteTimer s = .next t ∧
    (∀ c, t.circuit c = { s.circuit c with
      faultCount := if (s.circuit c).reported then (s.circuit c).faultCount else (s.circuit c).faultCount - 1
      reported := false }) ∧
    t = { s with circuits := t.circuits, timers := { s.timers with faultMinute := s.timers.faultMinute + 48000 } }

/-! ## The rack link -/

/-- REFRESH_TIMER and RACK_MISS (R157, R158, R162): all 96 codes of the rack are evaluated from one state and kept as its last-sent
codes, its transaction is in flight, and its timer is next due 25 ms later on the model's clock (log 3); a miss raises its count, and
the eighth in a row makes it LOST with a RACK event. The model's own: a frame sent while another rack's transaction is in flight takes
its place with no miss (log 15), and with no transaction in flight there is nothing to miss (log 8). -/
def Obligations.RackFramesAndMisses : Prop :=
  (∀ (s : State) (rack : BitVec 2), s.powered = true → ∃ t, exec (.refreshTimer rack) s = .next t ∧
    (∀ k, k < 96 → (t.rack rack.toNat).lastSent.get 0 k = s.rackCode (96 * rack.toNat + k)) ∧
    (t.rack rack.toNat).state = (s.rack rack.toNat).state ∧ (t.rack rack.toNat).missCount = (s.rack rack.toNat).missCount ∧
    (∀ r, r ≠ rack.toNat → t.rack r = s.rack r) ∧ t.rackInFlight = some rack.toNat ∧
    (∀ r, r < 4 → t.timers.refresh.get 0 r = s.timers.refresh.get 0 r + if r = rack.toNat then 20 else 0) ∧
    t = { s with racks := t.racks, rackInFlight := t.rackInFlight, timers := { s.timers with refresh := t.timers.refresh } }) ∧
  (∀ (s : State) (r : Nat), s.powered = true → s.rackInFlight = some r → r < 4 → ∃ t, exec .rackMiss s = .next t ∧
    (∀ q, q ≠ r → t.rack q = s.rack q) ∧
    ((s.rack r).state ≠ .lost → (s.rack r).missCount < 7 →
      t.rack r = { s.rack r with missCount := (s.rack r).missCount + 1 } ∧ t.events = s.events) ∧
    ((s.rack r).state ≠ .lost → 7 ≤ (s.rack r).missCount →
      t.rack r = { s.rack r with state := .lost, missCount := 8 } ∧ t.events = (s.latchRack r .lost).events) ∧
    ((s.rack r).state = .lost →
      t.rack r = { s.rack r with missCount := min 8 ((s.rack r).missCount + 1) } ∧ t.events = s.events) ∧
    t = { s with racks := t.racks, rackInFlight := none, events := t.events }) ∧
  ∀ s : State, s.powered = true → s.rackInFlight = none → exec .rackMiss s = .next s

/-- STATUS_REPLY (R160, R161, R163 to R165). A valid reply of the rack in flight makes it ONLINE, and counts each slot it names
once, unless the code last sent there was 0: the circuit's fault count rises by one up to 7 and its mark is set; a non-egress
circuit in service that is counted at 7 is retired and loses its holds. A CIRCUIT event is latched exactly when a circuit is retired or
an egress circuit's count rises from 6 to 7, and its detail names the circuit of the later entry; a RACK event, latched when the rack
was not ONLINE, names the rack and ONLINE; every other group and detail is kept. A reply that is not valid, or of another rack, is a miss; with no transaction in
flight a reply is ignored (the model's readings, logs 15 and 8). -/
def Obligations.StatusRepliesCountFaults : Prop :=
  (∀ (s : State) (rack : BitVec 2) (entries : List FaultEntry), s.powered = true → s.rackInFlight = some rack.toNat →
    faultsFit entries = true → ∃ t, exec (.statusReply rack entries) s = .next t ∧
      t.rack rack.toNat = { s.rack rack.toNat with state := .online, missCount := 0 } ∧
      (∀ r, r ≠ rack.toNat → t.rack r = s.rack r) ∧
      (let counted := fun c : Nat => ∃ e ∈ entries, c = 96 * rack.toNat + e.slot.toNat ∧
          (s.rack rack.toNat).lastSent.get 0 e.slot.toNat ≠ 0
       let retires := fun c : Nat => counted c ∧ (s.attrs c).egress = false ∧ (s.attrs c).retired = false ∧
          6 ≤ (s.circuit c).faultCount
       let reports := fun c : Nat => retires c ∨ counted c ∧ (s.attrs c).egress = true ∧ (s.circuit c).faultCount = 6
       (∀ c, counted c → t.circuit c =
          { s.circuit c with faultCount := min 7 ((s.circuit c).faultCount + 1), reported := true }) ∧
        (∀ c, ¬ counted c → t.circuit c = s.circuit c) ∧
        (∀ c, retires c → t.attrs c = { s.attrs c with retired := true } ∧ contributions t.holds c = []) ∧
        (∀ c, ¬ retires c → t.attrs c = s.attrs c ∧ contributions t.holds c = contributions s.holds c) ∧
        (t.events.flags.circuit = true ↔ s.events.flags.circuit = true ∨ ∃ c, reports c) ∧
        ((∀ c, ¬ reports c) → t.events.details.circuit = s.events.details.circuit) ∧
        (∀ before e after, entries = before ++ e :: after → reports (96 * rack.toNat + e.slot.toNat) →
          (∀ x ∈ before, x.slot ≠ e.slot) →
          (∀ x ∈ after, reports (96 * rack.toNat + x.slot.toNat) → ∃ y ∈ before ++ [e], y.slot = x.slot) →
          t.events.details.circuit = 96 * rack.toNat + e.slot.toNat)) ∧
      (let latched := if (s.rack rack.toNat).state = .online then s.events else (s.latchRack rack.toNat .online).events
       t.events = { flags := { latched.flags with circuit := t.events.flags.circuit }
                    details := { latched.details with circuit := t.events.details.circuit } }) ∧
      s.SameButPending t ∧
      t = { s with config := { s.config with circuits := t.config.circuits }, circuits := t.circuits, holds := t.holds,
                   racks := t.racks, rackInFlight := none, events := t.events, stations := t.stations }) ∧
  (∀ (s : State) (r : Nat) (rack : BitVec 2) (entries : List FaultEntry), s.powered = true → s.rackInFlight = some r →
    rack.toNat ≠ r ∨ faultsFit entries = false → exec (.statusReply rack entries) s = exec .rackMiss s) ∧
  ∀ (s : State) (rack : BitVec 2) (entries : List FaultEntry), s.powered = true → s.rackInFlight = none →
    exec (.statusReply rack entries) s = .next s

/-! ## Levels, targets, indicators -/

/-- The LINEAR curve (R115) with the guide's own worked values, and with it the SQUARE (R116) and SWITCHED (R117) ones. -/
def Obligations.CurvesGiveRackCodes : Prop :=
  (∀ l, curveCode .linear l = (l * 255 + 500) / 1000) ∧
  (curveCode .linear 1 = 0 ∧ curveCode .linear 2 = 1 ∧ curveCode .linear 500 = 128 ∧ curveCode .linear 999 = 255 ∧
    curveCode .linear 1000 = 255) ∧
  (∀ l, curveCode .square l = (l * l * 255 + 500000) / 1000000) ∧
  (curveCode .square 44 = 0 ∧ curveCode .square 45 = 1 ∧ curveCode .square 500 = 64 ∧ curveCode .square 999 = 254 ∧
    curveCode .square 1000 = 255 ∧ ∀ l, 1 ≤ l → l ≤ 44 → curveCode .square l = 0) ∧
  (∀ l, curveCode .switched l = if 500 ≤ l then 255 else 0) ∧
  ∀ (k : Curve) (l m : Nat), l ≤ m → m ≤ 1000 → curveCode k l ≤ curveCode k m ∧ curveCode k m ≤ 255

/-- The merge (R107 to R113): the base among the counted live holds of the highest priority, the pull among the counted
fading-out ones, then floor, holdover, panic and retirement; within 0–1000 and 0–255 wherever the levels held are. -/
def Obligations.MergeGivesOutputLevel : Prop :=
  (∀ (rule : MergeRule) (list : List Hold), (∀ h ∈ list, h.state = .fadingOut ∨ h.parked = true) →
    baseLevel rule list = 0) ∧
  (∀ (list : List Hold) (h : Hold), h ∈ list → h.state ≠ .fadingOut → h.parked = false →
    (∀ k ∈ list, k.state ≠ .fadingOut → k.parked = false →
      k.priority < h.priority ∨ k.priority = h.priority ∧ k.level ≤ h.level) → baseLevel .htp list = h.level) ∧
  (∀ (before after : List Hold) (h : Hold), h.state ≠ .fadingOut → h.parked = false →
    (∀ k ∈ before, k.state ≠ .fadingOut → k.parked = false → k.priority ≤ h.priority) →
    (∀ k ∈ after, k.state ≠ .fadingOut → k.parked = false → k.priority < h.priority) →
    baseLevel .ltp (before ++ h :: after) = h.level) ∧
  (∀ list : List Hold, (∀ h ∈ list, h.state = .fadingOut → h.parked = false → h.level ≤ pullLevel list) ∧
    (pullLevel list = 0 ∨ ∃ h ∈ list, h.state = .fadingOut ∧ h.parked = false ∧ h.level = pullLevel list)) ∧
  (∀ (s : State) (c : Nat),
    let list := s.holds.filter (fun h => h.circuit == c)
    let a := s.attrs c
    s.mergedLevel c = max (baseLevel a.mergeRule list) (pullLevel list) ∧
    (a.retired = true → s.outputLevel c = 0) ∧
    (a.retired = false → s.mode = .panic → a.panicParticipant = true → s.outputLevel c = 1000) ∧
    (a.retired = false → s.mode = .panic → a.panicParticipant = false →
      s.outputLevel c = max (s.mergedLevel c) (if a.egress then a.floor else 0)) ∧
    (a.retired = false → s.mode = .work → s.outputLevel c = s.mergedLevel c) ∧
    (a.retired = false → s.mode = .openHouse ∨ s.mode = .show ∨ s.mode = .interval →
      s.outputLevel c = max (s.mergedLevel c) (if a.egress then a.floor else 0)) ∧
    (a.retired = false → s.mode = .holdover → s.outputLevel c =
      max (max (s.mergedLevel c) (if a.egress then a.floor else 0)) (if a.house then s.config.holdoverLevel else 0)) ∧
    s.rackCode c = curveCode a.curve (s.outputLevel c)) ∧
  ∀ s : State, s.LevelLaw → ∀ c, s.mergedLevel c ≤ 1000 ∧ s.outputLevel c ≤ 1000 ∧ s.rackCode c ≤ 255

/-- Target circuits (R48): the target's circuits in list order; while one circuit carries a MOVING mark it is read as the
circuit the mark names, and dropped where the list has that circuit itself; then the retired ones are dropped. Where the lists
and the marks keep their laws, every target circuit appears once. -/
def Obligations.TargetCircuits : Prop :=
  (∀ (s : State) (level : Nat), s.listed .absent level = [] ∧ (∀ c, s.listed (.circuit c) level = [(c, level)]) ∧
    (∀ g, s.listed (.group g) level = (s.group g).map (fun c => (c, level))) ∧
    ∀ p, s.listed (.preset p) level = (s.preset p).entries) ∧
  (∀ (s : State) (target : Target) (level : Nat), (∀ c, (s.circuit c).moving = none) →
    s.targets target level = (s.listed target level).filter (fun x => !(s.attrs x.1).retired)) ∧
  (∀ (s : State) (target : Target) (level old new : Nat), old ≠ new →
    (∀ c, (s.circuit c).moving = if c = old then some new else none) →
    s.mappedTargets target level =
      ((s.listed target level).filter fun x => !(x.1 == old && (s.listed target level).any (fun y => y.1 == new))).map
        (fun x => if x.1 = old then (new, x.2) else x) ∧
    s.targets target level = (s.mappedTargets target level).filter (fun x => !(s.attrs x.1).retired)) ∧
  ∀ (s : State) (target : Target) (level : Nat), s.ListsLaw → s.MarkLaw →
    ((s.targets target level).map Prod.fst).Nodup

/-- Indicator images (R34, R35): the state of each of the sixteen controls, what a recomputation does to image pending, and that every
command, where it does not set image pending by a rule of its own, leaves what the recomputation gives. That an image is recomputed
exactly when what it is computed from changes, enrolled among it, is the model's reading (log 13), as is that the tests of a preset
target read no zone of the preset (R125, log 21). -/
def Obligations.IndicatorImages : Prop :=
  (∀ (s : State) (n c : Nat), c < 16 →
    let slot := s.slot n
    let i := slot.base + c
    let b := s.binding i
    let reached := c < slot.count ∧ i ≤ 1023 ∧ b.present = true
    let targets := s.mappedTargets b.target b.level
    let mine := fun h : Hold => h ∈ s.holds ∧ h.originator = b.originator i ∧ ∃ x ∈ targets, x.1 = h.circuit
    let unparked := ∃ h, mine h ∧ h.state ≠ .fadingOut ∧ h.parked = false
    let warned := ∃ h, mine h ∧ h.state ≠ .fadingOut ∧ h.parked = false ∧ h.expiry = some 1
    let parked := ∃ h, mine h ∧ h.state ≠ .fadingOut ∧ h.parked = true
    let acts := reached ∧ b.kind ≠ .panic ∧ b.kind ≠ .stationClear
    let byHold := b.indicator = .followHold ∨ b.indicator = .followLevel ∧ ∃ p, b.target = .preset p
    (¬ reached → (s.image n)[c]? = some .off) ∧
    (reached → b.kind = .panic → (s.image n)[c]? = some (if s.mode = .panic then .on else .off)) ∧
    (reached → b.kind = .stationClear → (s.image n)[c]? = some .off) ∧
    (acts → b.indicator = .dark → (s.image n)[c]? = some .off) ∧
    (acts → byHold → warned → (s.image n)[c]? = some .fastFlash) ∧
    (acts → byHold → ¬ warned → unparked → (s.image n)[c]? = some .on) ∧
    (acts → byHold → ¬ unparked → parked → (s.image n)[c]? = some .slowFlash) ∧
    (acts → byHold → ¬ unparked → ¬ parked → (s.image n)[c]? = some .off) ∧
    (acts → b.indicator = .followLevel → (∀ p, b.target ≠ .preset p) → (∃ x ∈ targets, 0 < s.outputLevel x.1) →
      (s.image n)[c]? = some .on) ∧
    (acts → b.indicator = .followLevel → (∀ p, b.target ≠ .preset p) → (∀ x ∈ targets, s.outputLevel x.1 = 0) →
      (s.image n)[c]? = some .off)) ∧
  (∀ (before after : State) (n : Nat), after.SameButPending (State.recomputeImages before after) ∧
    ((after.slot n).enrolled = true → after.imageInputs n ≠ before.imageInputs n →
      (after.image n ≠ (after.live n).lastImage →
        ((State.recomputeImages before after).live n).imagePending = true) ∧
      (after.image n = (after.live n).lastImage → after.imageInFlight n = false → (after.live n).forced = false →
        ((State.recomputeImages before after).live n).imagePending = false) ∧
      (after.image n = (after.live n).lastImage → after.imageInFlight n = true ∨ (after.live n).forced = true →
        (State.recomputeImages before after).live n = after.live n)) ∧
    ((after.slot n).enrolled = false ∨ after.imageInputs n = before.imageInputs n →
      (State.recomputeImages before after).live n = after.live n)) ∧
  ∀ (c : Instr) (s t : State) (n : Nat), exec c s = .next t → ¬ s.PendingSetBy c n → s.PendingRecomputed t n

/-! ## Laws -/

/-- Every law holds at reset, the machine right after a first start-up: its live state is empty and its configuration the
default one, in PANIC (R196). Which start-up that is, the model chooses (log 2). -/
def Obligations.LawsHoldAtReset : Prop :=
  State.reset.CurrentLaw ∧ State.reset.QueueLaw ∧ State.reset.LockLaw ∧ State.reset.PanicLaw ∧ State.reset.MarkLaw ∧ State.reset.FaultLaw ∧
    State.reset.RetiredLaw ∧ State.reset.ParkedLaw ∧ State.reset.PoolLaw ∧ State.reset.MomentaryLaw ∧ State.reset.ListsLaw ∧
    State.reset.ImageLaw ∧ State.reset.LevelLaw ∧ State.reset.ReportsLaw ∧ State.reset.LiveStateEmpty ∧
    State.reset.config = Configuration.default ∧ State.reset.mode = .panic ∧ State.reset.pending = []

/-- While the mode is SHOW the show lock is held (R154), and while the panic input latch is active the mode is PANIC (R141): each
is kept by every step. -/
def Obligations.ModeLawsKept : Prop :=
  (∀ s t : State, s.LockLaw → step s = .next t → t.LockLaw) ∧ ∀ s t : State, s.PanicLaw → step s = .next t → t.PanicLaw

/-- The press queue's bound (R37), the bounds of the lists, which name no circuit twice (R118, R122), the cleared form of records that
are not valid (R53, R184), and the empty current entry (R41; that a resolution is one step: log 1): each is kept by every step. -/
def Obligations.BoundsKept : Prop :=
  (∀ s t : State, s.CurrentLaw → step s = .next t → t.CurrentLaw) ∧
  (∀ s t : State, s.QueueLaw → step s = .next t → t.QueueLaw) ∧ (∀ s t : State, s.ListsLaw → step s = .next t → t.ListsLaw) ∧
    ∀ s t : State, s.ReportsLaw → step s = .next t → t.ReportsLaw

/-- A MOVING mark stands exactly while a sweep is in flight, on its old circuit (R169), and every fault count lies within 0–7
(R167): each is kept by every step. -/
def Obligations.CircuitLawsKept : Prop :=
  (∀ s t : State, s.MarkLaw → step s = .next t → t.MarkLaw) ∧ ∀ s t : State, s.FaultLaw → step s = .next t → t.FaultLaw

/-- A retired circuit is never an egress circuit and holds no holds (R98): kept by every step. -/
def Obligations.RetiredLawKept : Prop := ∀ s t : State, s.RetiredLaw → step s = .next t → t.RetiredLaw

/-- A hold is parked exactly when it carries a zone that is CLOSED in the current mode (R85): kept by every step. -/
def Obligations.ParkedLawKept : Prop := ∀ s t : State, s.ParkedLaw → step s = .next t → t.ParkedLaw

/-- The pool keeps one hold to a slot, and no two holds share both circuit and originator (R68): kept by every step. -/
def Obligations.PoolLawKept : Prop := ∀ s t : State, s.PoolLaw → step s = .next t → t.PoolLaw

/-- Every live MOMENTARY hold has a last station whose presence is ONLINE (R74), with the presence values of R19: kept by every
step. -/
def Obligations.MomentaryLawKept : Prop := ∀ s t : State, s.MomentaryLaw → step s = .next t → t.MomentaryLaw

/-- An enrolled station whose image differs from its last-sent image has an image pending, and an unenrolled station has none
(R35): kept by every step. -/
def Obligations.ImageLawKept : Prop := ∀ s t : State, s.ImageLaw → step s = .next t → t.ImageLaw

/-- Every level, of every hold and in every configuration held, lies within 0–1000 (R76, R113): kept by every step. -/
def Obligations.LevelLawKept : Prop := ∀ s t : State, s.LevelLaw → step s = .next t → t.LevelLaw
end

