-- ==== Sys2Proof/Laws/State.lean ====
section
/-! SUPPORT. What each named update of the state leaves in each field, one lemma per field per update, all true by
unfolding. Later proofs cite these and unfold no update. -/
namespace Sys2Proof.Machine.State

@[simp] theorem setLive_powered (s : State) (n : Nat) (v : StationLive) : (s.setLive n v).powered = s.powered := rfl
@[simp] theorem setLive_clock (s : State) (n : Nat) (v : StationLive) : (s.setLive n v).clock = s.clock := rfl
@[simp] theorem setLive_timers (s : State) (n : Nat) (v : StationLive) : (s.setLive n v).timers = s.timers := rfl
@[simp] theorem setLive_config (s : State) (n : Nat) (v : StationLive) : (s.setLive n v).config = s.config := rfl
@[simp] theorem setLive_store (s : State) (n : Nat) (v : StationLive) : (s.setLive n v).store = s.store := rfl
@[simp] theorem setLive_stations (s : State) (n : Nat) (v : StationLive) : (s.setLive n v).stations = s.stations.set n v := rfl
@[simp] theorem setLive_loopA (s : State) (n : Nat) (v : StationLive) : (s.setLive n v).loopA = s.loopA := rfl
@[simp] theorem setLive_loopB (s : State) (n : Nat) (v : StationLive) : (s.setLive n v).loopB = s.loopB := rfl
@[simp] theorem setLive_queue (s : State) (n : Nat) (v : StationLive) : (s.setLive n v).queue = s.queue := rfl
@[simp] theorem setLive_current (s : State) (n : Nat) (v : StationLive) : (s.setLive n v).current = s.current := rfl
@[simp] theorem setLive_holds (s : State) (n : Nat) (v : StationLive) : (s.setLive n v).holds = s.holds := rfl
@[simp] theorem setLive_circuits (s : State) (n : Nat) (v : StationLive) : (s.setLive n v).circuits = s.circuits := rfl
@[simp] theorem setLive_mode (s : State) (n : Nat) (v : StationLive) : (s.setLive n v).mode = s.mode := rfl
@[simp] theorem setLive_lock (s : State) (n : Nat) (v : StationLive) : (s.setLive n v).lock = s.lock := rfl
@[simp] theorem setLive_panicLatch (s : State) (n : Nat) (v : StationLive) : (s.setLive n v).panicLatch = s.panicLatch := rfl
@[simp] theorem setLive_racks (s : State) (n : Nat) (v : StationLive) : (s.setLive n v).racks = s.racks := rfl
@[simp] theorem setLive_rackInFlight (s : State) (n : Nat) (v : StationLive) : (s.setLive n v).rackInFlight = s.rackInFlight := rfl
@[simp] theorem setLive_sweeper (s : State) (n : Nat) (v : StationLive) : (s.setLive n v).sweeper = s.sweeper := rfl
@[simp] theorem setLive_port (s : State) (n : Nat) (v : StationLive) : (s.setLive n v).port = s.port := rfl
@[simp] theorem setLive_sense (s : State) (n : Nat) (v : StationLive) : (s.setLive n v).sense = s.sense := rfl
@[simp] theorem setLive_refusal (s : State) (n : Nat) (v : StationLive) : (s.setLive n v).refusal = s.refusal := rfl
@[simp] theorem setLive_events (s : State) (n : Nat) (v : StationLive) : (s.setLive n v).events = s.events := rfl
@[simp] theorem setLive_mask (s : State) (n : Nat) (v : StationLive) : (s.setLive n v).mask = s.mask := rfl
@[simp] theorem setLive_pending (s : State) (n : Nat) (v : StationLive) : (s.setLive n v).pending = s.pending := rfl

@[simp] theorem setCircuit_powered (s : State) (c : Nat) (v : CircuitLive) : (s.setCircuit c v).powered = s.powered := rfl
@[simp] theorem setCircuit_clock (s : State) (c : Nat) (v : CircuitLive) : (s.setCircuit c v).clock = s.clock := rfl
@[simp] theorem setCircuit_timers (s : State) (c : Nat) (v : CircuitLive) : (s.setCircuit c v).timers = s.timers := rfl
@[simp] theorem setCircuit_config (s : State) (c : Nat) (v : CircuitLive) : (s.setCircuit c v).config = s.config := rfl
@[simp] theorem setCircuit_store (s : State) (c : Nat) (v : CircuitLive) : (s.setCircuit c v).store = s.store := rfl
@[simp] theorem setCircuit_stations (s : State) (c : Nat) (v : CircuitLive) : (s.setCircuit c v).stations = s.stations := rfl
@[simp] theorem setCircuit_loopA (s : State) (c : Nat) (v : CircuitLive) : (s.setCircuit c v).loopA = s.loopA := rfl
@[simp] theorem setCircuit_loopB (s : State) (c : Nat) (v : CircuitLive) : (s.setCircuit c v).loopB = s.loopB := rfl
@[simp] theorem setCircuit_queue (s : State) (c : Nat) (v : CircuitLive) : (s.setCircuit c v).queue = s.queue := rfl
@[simp] theorem setCircuit_current (s : State) (c : Nat) (v : CircuitLive) : (s.setCircuit c v).current = s.current := rfl
@[simp] theorem setCircuit_holds (s : State) (c : Nat) (v : CircuitLive) : (s.setCircuit c v).holds = s.holds := rfl
@[simp] theorem setCircuit_circuits (s : State) (c : Nat) (v : CircuitLive) : (s.setCircuit c v).circuits = s.circuits.set c v := rfl
@[simp] theorem setCircuit_mode (s : State) (c : Nat) (v : CircuitLive) : (s.setCircuit c v).mode = s.mode := rfl
@[simp] theorem setCircuit_lock (s : State) (c : Nat) (v : CircuitLive) : (s.setCircuit c v).lock = s.lock := rfl
@[simp] theorem setCircuit_panicLatch (s : State) (c : Nat) (v : CircuitLive) : (s.setCircuit c v).panicLatch = s.panicLatch := rfl
@[simp] theorem setCircuit_racks (s : State) (c : Nat) (v : CircuitLive) : (s.setCircuit c v).racks = s.racks := rfl
@[simp] theorem setCircuit_rackInFlight (s : State) (c : Nat) (v : CircuitLive) : (s.setCircuit c v).rackInFlight = s.rackInFlight := rfl
@[simp] theorem setCircuit_sweeper (s : State) (c : Nat) (v : CircuitLive) : (s.setCircuit c v).sweeper = s.sweeper := rfl
@[simp] theorem setCircuit_port (s : State) (c : Nat) (v : CircuitLive) : (s.setCircuit c v).port = s.port := rfl
@[simp] theorem setCircuit_sense (s : State) (c : Nat) (v : CircuitLive) : (s.setCircuit c v).sense = s.sense := rfl
@[simp] theorem setCircuit_refusal (s : State) (c : Nat) (v : CircuitLive) : (s.setCircuit c v).refusal = s.refusal := rfl
@[simp] theorem setCircuit_events (s : State) (c : Nat) (v : CircuitLive) : (s.setCircuit c v).events = s.events := rfl
@[simp] theorem setCircuit_mask (s : State) (c : Nat) (v : CircuitLive) : (s.setCircuit c v).mask = s.mask := rfl
@[simp] theorem setCircuit_pending (s : State) (c : Nat) (v : CircuitLive) : (s.setCircuit c v).pending = s.pending := rfl

@[simp] theorem setRack_powered (s : State) (r : Nat) (v : Rack) : (s.setRack r v).powered = s.powered := rfl
@[simp] theorem setRack_clock (s : State) (r : Nat) (v : Rack) : (s.setRack r v).clock = s.clock := rfl
@[simp] theorem setRack_timers (s : State) (r : Nat) (v : Rack) : (s.setRack r v).timers = s.timers := rfl
@[simp] theorem setRack_config (s : State) (r : Nat) (v : Rack) : (s.setRack r v).config = s.config := rfl
@[simp] theorem setRack_store (s : State) (r : Nat) (v : Rack) : (s.setRack r v).store = s.store := rfl
@[simp] theorem setRack_stations (s : State) (r : Nat) (v : Rack) : (s.setRack r v).stations = s.stations := rfl
@[simp] theorem setRack_loopA (s : State) (r : Nat) (v : Rack) : (s.setRack r v).loopA = s.loopA := rfl
@[simp] theorem setRack_loopB (s : State) (r : Nat) (v : Rack) : (s.setRack r v).loopB = s.loopB := rfl
@[simp] theorem setRack_queue (s : State) (r : Nat) (v : Rack) : (s.setRack r v).queue = s.queue := rfl
@[simp] theorem setRack_current (s : State) (r : Nat) (v : Rack) : (s.setRack r v).current = s.current := rfl
@[simp] theorem setRack_holds (s : State) (r : Nat) (v : Rack) : (s.setRack r v).holds = s.holds := rfl
@[simp] theorem setRack_circuits (s : State) (r : Nat) (v : Rack) : (s.setRack r v).circuits = s.circuits := rfl
@[simp] theorem setRack_mode (s : State) (r : Nat) (v : Rack) : (s.setRack r v).mode = s.mode := rfl
@[simp] theorem setRack_lock (s : State) (r : Nat) (v : Rack) : (s.setRack r v).lock = s.lock := rfl
@[simp] theorem setRack_panicLatch (s : State) (r : Nat) (v : Rack) : (s.setRack r v).panicLatch = s.panicLatch := rfl
@[simp] theorem setRack_racks (s : State) (r : Nat) (v : Rack) : (s.setRack r v).racks = s.racks.set r v := rfl
@[simp] theorem setRack_rackInFlight (s : State) (r : Nat) (v : Rack) : (s.setRack r v).rackInFlight = s.rackInFlight := rfl
@[simp] theorem setRack_sweeper (s : State) (r : Nat) (v : Rack) : (s.setRack r v).sweeper = s.sweeper := rfl
@[simp] theorem setRack_port (s : State) (r : Nat) (v : Rack) : (s.setRack r v).port = s.port := rfl
@[simp] theorem setRack_sense (s : State) (r : Nat) (v : Rack) : (s.setRack r v).sense = s.sense := rfl
@[simp] theorem setRack_refusal (s : State) (r : Nat) (v : Rack) : (s.setRack r v).refusal = s.refusal := rfl
@[simp] theorem setRack_events (s : State) (r : Nat) (v : Rack) : (s.setRack r v).events = s.events := rfl
@[simp] theorem setRack_mask (s : State) (r : Nat) (v : Rack) : (s.setRack r v).mask = s.mask := rfl
@[simp] theorem setRack_pending (s : State) (r : Nat) (v : Rack) : (s.setRack r v).pending = s.pending := rfl

@[simp] theorem setBinding_powered (s : State) (i : Nat) (b : Binding) : (s.setBinding i b).powered = s.powered := rfl
@[simp] theorem setBinding_clock (s : State) (i : Nat) (b : Binding) : (s.setBinding i b).clock = s.clock := rfl
@[simp] theorem setBinding_timers (s : State) (i : Nat) (b : Binding) : (s.setBinding i b).timers = s.timers := rfl
@[simp] theorem setBinding_config (s : State) (i : Nat) (b : Binding) : (s.setBinding i b).config = { s.config with bindings := s.config.bindings.set i b } := rfl
@[simp] theorem setBinding_store (s : State) (i : Nat) (b : Binding) : (s.setBinding i b).store = s.store := rfl
@[simp] theorem setBinding_stations (s : State) (i : Nat) (b : Binding) : (s.setBinding i b).stations = s.stations := rfl
@[simp] theorem setBinding_loopA (s : State) (i : Nat) (b : Binding) : (s.setBinding i b).loopA = s.loopA := rfl
@[simp] theorem setBinding_loopB (s : State) (i : Nat) (b : Binding) : (s.setBinding i b).loopB = s.loopB := rfl
@[simp] theorem setBinding_queue (s : State) (i : Nat) (b : Binding) : (s.setBinding i b).queue = s.queue := rfl
@[simp] theorem setBinding_current (s : State) (i : Nat) (b : Binding) : (s.setBinding i b).current = s.current := rfl
@[simp] theorem setBinding_holds (s : State) (i : Nat) (b : Binding) : (s.setBinding i b).holds = s.holds := rfl
@[simp] theorem setBinding_circuits (s : State) (i : Nat) (b : Binding) : (s.setBinding i b).circuits = s.circuits := rfl
@[simp] theorem setBinding_mode (s : State) (i : Nat) (b : Binding) : (s.setBinding i b).mode = s.mode := rfl
@[simp] theorem setBinding_lock (s : State) (i : Nat) (b : Binding) : (s.setBinding i b).lock = s.lock := rfl
@[simp] theorem setBinding_panicLatch (s : State) (i : Nat) (b : Binding) : (s.setBinding i b).panicLatch = s.panicLatch := rfl
@[simp] theorem setBinding_racks (s : State) (i : Nat) (b : Binding) : (s.setBinding i b).racks = s.racks := rfl
@[simp] theorem setBinding_rackInFlight (s : State) (i : Nat) (b : Binding) : (s.setBinding i b).rackInFlight = s.rackInFlight := rfl
@[simp] theorem setBinding_sweeper (s : State) (i : Nat) (b : Binding) : (s.setBinding i b).sweeper = s.sweeper := rfl
@[simp] theorem setBinding_port (s : State) (i : Nat) (b : Binding) : (s.setBinding i b).port = s.port := rfl
@[simp] theorem setBinding_sense (s : State) (i : Nat) (b : Binding) : (s.setBinding i b).sense = s.sense := rfl
@[simp] theorem setBinding_refusal (s : State) (i : Nat) (b : Binding) : (s.setBinding i b).refusal = s.refusal := rfl
@[simp] theorem setBinding_events (s : State) (i : Nat) (b : Binding) : (s.setBinding i b).events = s.events := rfl
@[simp] theorem setBinding_mask (s : State) (i : Nat) (b : Binding) : (s.setBinding i b).mask = s.mask := rfl
@[simp] theorem setBinding_pending (s : State) (i : Nat) (b : Binding) : (s.setBinding i b).pending = s.pending := rfl

@[simp] theorem setSlot_powered (s : State) (n : Nat) (c : StationConfig) : (s.setSlot n c).powered = s.powered := rfl
@[simp] theorem setSlot_clock (s : State) (n : Nat) (c : StationConfig) : (s.setSlot n c).clock = s.clock := rfl
@[simp] theorem setSlot_timers (s : State) (n : Nat) (c : StationConfig) : (s.setSlot n c).timers = s.timers := rfl
@[simp] theorem setSlot_config (s : State) (n : Nat) (c : StationConfig) : (s.setSlot n c).config = { s.config with stations := s.config.stations.set n c } := rfl
@[simp] theorem setSlot_store (s : State) (n : Nat) (c : StationConfig) : (s.setSlot n c).store = s.store := rfl
@[simp] theorem setSlot_stations (s : State) (n : Nat) (c : StationConfig) : (s.setSlot n c).stations = s.stations := rfl
@[simp] theorem setSlot_loopA (s : State) (n : Nat) (c : StationConfig) : (s.setSlot n c).loopA = s.loopA := rfl
@[simp] theorem setSlot_loopB (s : State) (n : Nat) (c : StationConfig) : (s.setSlot n c).loopB = s.loopB := rfl
@[simp] theorem setSlot_queue (s : State) (n : Nat) (c : StationConfig) : (s.setSlot n c).queue = s.queue := rfl
@[simp] theorem setSlot_current (s : State) (n : Nat) (c : StationConfig) : (s.setSlot n c).current = s.current := rfl
@[simp] theorem setSlot_holds (s : State) (n : Nat) (c : StationConfig) : (s.setSlot n c).holds = s.holds := rfl
@[simp] theorem setSlot_circuits (s : State) (n : Nat) (c : StationConfig) : (s.setSlot n c).circuits = s.circuits := rfl
@[simp] theorem setSlot_mode (s : State) (n : Nat) (c : StationConfig) : (s.setSlot n c).mode = s.mode := rfl
@[simp] theorem setSlot_lock (s : State) (n : Nat) (c : StationConfig) : (s.setSlot n c).lock = s.lock := rfl
@[simp] theorem setSlot_panicLatch (s : State) (n : Nat) (c : StationConfig) : (s.setSlot n c).panicLatch = s.panicLatch := rfl
@[simp] theorem setSlot_racks (s : State) (n : Nat) (c : StationConfig) : (s.setSlot n c).racks = s.racks := rfl
@[simp] theorem setSlot_rackInFlight (s : State) (n : Nat) (c : StationConfig) : (s.setSlot n c).rackInFlight = s.rackInFlight := rfl
@[simp] theorem setSlot_sweeper (s : State) (n : Nat) (c : StationConfig) : (s.setSlot n c).sweeper = s.sweeper := rfl
@[simp] theorem setSlot_port (s : State) (n : Nat) (c : StationConfig) : (s.setSlot n c).port = s.port := rfl
@[simp] theorem setSlot_sense (s : State) (n : Nat) (c : StationConfig) : (s.setSlot n c).sense = s.sense := rfl
@[simp] theorem setSlot_refusal (s : State) (n : Nat) (c : StationConfig) : (s.setSlot n c).refusal = s.refusal := rfl
@[simp] theorem setSlot_events (s : State) (n : Nat) (c : StationConfig) : (s.setSlot n c).events = s.events := rfl
@[simp] theorem setSlot_mask (s : State) (n : Nat) (c : StationConfig) : (s.setSlot n c).mask = s.mask := rfl
@[simp] theorem setSlot_pending (s : State) (n : Nat) (c : StationConfig) : (s.setSlot n c).pending = s.pending := rfl

@[simp] theorem setGroup_powered (s : State) (g : Nat) (l : List Nat) : (s.setGroup g l).powered = s.powered := rfl
@[simp] theorem setGroup_clock (s : State) (g : Nat) (l : List Nat) : (s.setGroup g l).clock = s.clock := rfl
@[simp] theorem setGroup_timers (s : State) (g : Nat) (l : List Nat) : (s.setGroup g l).timers = s.timers := rfl
@[simp] theorem setGroup_config (s : State) (g : Nat) (l : List Nat) : (s.setGroup g l).config = { s.config with groups := s.config.groups.set g l } := rfl
@[simp] theorem setGroup_store (s : State) (g : Nat) (l : List Nat) : (s.setGroup g l).store = s.store := rfl
@[simp] theorem setGroup_stations (s : State) (g : Nat) (l : List Nat) : (s.setGroup g l).stations = s.stations := rfl
@[simp] theorem setGroup_loopA (s : State) (g : Nat) (l : List Nat) : (s.setGroup g l).loopA = s.loopA := rfl
@[simp] theorem setGroup_loopB (s : State) (g : Nat) (l : List Nat) : (s.setGroup g l).loopB = s.loopB := rfl
@[simp] theorem setGroup_queue (s : State) (g : Nat) (l : List Nat) : (s.setGroup g l).queue = s.queue := rfl
@[simp] theorem setGroup_current (s : State) (g : Nat) (l : List Nat) : (s.setGroup g l).current = s.current := rfl
@[simp] theorem setGroup_holds (s : State) (g : Nat) (l : List Nat) : (s.setGroup g l).holds = s.holds := rfl
@[simp] theorem setGroup_circuits (s : State) (g : Nat) (l : List Nat) : (s.setGroup g l).circuits = s.circuits := rfl
@[simp] theorem setGroup_mode (s : State) (g : Nat) (l : List Nat) : (s.setGroup g l).mode = s.mode := rfl
@[simp] theorem setGroup_lock (s : State) (g : Nat) (l : List Nat) : (s.setGroup g l).lock = s.lock := rfl
@[simp] theorem setGroup_panicLatch (s : State) (g : Nat) (l : List Nat) : (s.setGroup g l).panicLatch = s.panicLatch := rfl
@[simp] theorem setGroup_racks (s : State) (g : Nat) (l : List Nat) : (s.setGroup g l).racks = s.racks := rfl
@[simp] theorem setGroup_rackInFlight (s : State) (g : Nat) (l : List Nat) : (s.setGroup g l).rackInFlight = s.rackInFlight := rfl
@[simp] theorem setGroup_sweeper (s : State) (g : Nat) (l : List Nat) : (s.setGroup g l).sweeper = s.sweeper := rfl
@[simp] theorem setGroup_port (s : State) (g : Nat) (l : List Nat) : (s.setGroup g l).port = s.port := rfl
@[simp] theorem setGroup_sense (s : State) (g : Nat) (l : List Nat) : (s.setGroup g l).sense = s.sense := rfl
@[simp] theorem setGroup_refusal (s : State) (g : Nat) (l : List Nat) : (s.setGroup g l).refusal = s.refusal := rfl
@[simp] theorem setGroup_events (s : State) (g : Nat) (l : List Nat) : (s.setGroup g l).events = s.events := rfl
@[simp] theorem setGroup_mask (s : State) (g : Nat) (l : List Nat) : (s.setGroup g l).mask = s.mask := rfl
@[simp] theorem setGroup_pending (s : State) (g : Nat) (l : List Nat) : (s.setGroup g l).pending = s.pending := rfl

@[simp] theorem setPreset_powered (s : State) (p : Nat) (v : Preset) : (s.setPreset p v).powered = s.powered := rfl
@[simp] theorem setPreset_clock (s : State) (p : Nat) (v : Preset) : (s.setPreset p v).clock = s.clock := rfl
@[simp] theorem setPreset_timers (s : State) (p : Nat) (v : Preset) : (s.setPreset p v).timers = s.timers := rfl
@[simp] theorem setPreset_config (s : State) (p : Nat) (v : Preset) : (s.setPreset p v).config = { s.config with presets := s.config.presets.set p v } := rfl
@[simp] theorem setPreset_store (s : State) (p : Nat) (v : Preset) : (s.setPreset p v).store = s.store := rfl
@[simp] theorem setPreset_stations (s : State) (p : Nat) (v : Preset) : (s.setPreset p v).stations = s.stations := rfl
@[simp] theorem setPreset_loopA (s : State) (p : Nat) (v : Preset) : (s.setPreset p v).loopA = s.loopA := rfl
@[simp] theorem setPreset_loopB (s : State) (p : Nat) (v : Preset) : (s.setPreset p v).loopB = s.loopB := rfl
@[simp] theorem setPreset_queue (s : State) (p : Nat) (v : Preset) : (s.setPreset p v).queue = s.queue := rfl
@[simp] theorem setPreset_current (s : State) (p : Nat) (v : Preset) : (s.setPreset p v).current = s.current := rfl
@[simp] theorem setPreset_holds (s : State) (p : Nat) (v : Preset) : (s.setPreset p v).holds = s.holds := rfl
@[simp] theorem setPreset_circuits (s : State) (p : Nat) (v : Preset) : (s.setPreset p v).circuits = s.circuits := rfl
@[simp] theorem setPreset_mode (s : State) (p : Nat) (v : Preset) : (s.setPreset p v).mode = s.mode := rfl
@[simp] theorem setPreset_lock (s : State) (p : Nat) (v : Preset) : (s.setPreset p v).lock = s.lock := rfl
@[simp] theorem setPreset_panicLatch (s : State) (p : Nat) (v : Preset) : (s.setPreset p v).panicLatch = s.panicLatch := rfl
@[simp] theorem setPreset_racks (s : State) (p : Nat) (v : Preset) : (s.setPreset p v).racks = s.racks := rfl
@[simp] theorem setPreset_rackInFlight (s : State) (p : Nat) (v : Preset) : (s.setPreset p v).rackInFlight = s.rackInFlight := rfl
@[simp] theorem setPreset_sweeper (s : State) (p : Nat) (v : Preset) : (s.setPreset p v).sweeper = s.sweeper := rfl
@[simp] theorem setPreset_port (s : State) (p : Nat) (v : Preset) : (s.setPreset p v).port = s.port := rfl
@[simp] theorem setPreset_sense (s : State) (p : Nat) (v : Preset) : (s.setPreset p v).sense = s.sense := rfl
@[simp] theorem setPreset_refusal (s : State) (p : Nat) (v : Preset) : (s.setPreset p v).refusal = s.refusal := rfl
@[simp] theorem setPreset_events (s : State) (p : Nat) (v : Preset) : (s.setPreset p v).events = s.events := rfl
@[simp] theorem setPreset_mask (s : State) (p : Nat) (v : Preset) : (s.setPreset p v).mask = s.mask := rfl
@[simp] theorem setPreset_pending (s : State) (p : Nat) (v : Preset) : (s.setPreset p v).pending = s.pending := rfl

@[simp] theorem setAttrs_powered (s : State) (c : Nat) (a : CircuitAttrs) : (s.setAttrs c a).powered = s.powered := rfl
@[simp] theorem setAttrs_clock (s : State) (c : Nat) (a : CircuitAttrs) : (s.setAttrs c a).clock = s.clock := rfl
@[simp] theorem setAttrs_timers (s : State) (c : Nat) (a : CircuitAttrs) : (s.setAttrs c a).timers = s.timers := rfl
@[simp] theorem setAttrs_config (s : State) (c : Nat) (a : CircuitAttrs) : (s.setAttrs c a).config = { s.config with circuits := s.config.circuits.set c a } := rfl
@[simp] theorem setAttrs_store (s : State) (c : Nat) (a : CircuitAttrs) : (s.setAttrs c a).store = s.store := rfl
@[simp] theorem setAttrs_stations (s : State) (c : Nat) (a : CircuitAttrs) : (s.setAttrs c a).stations = s.stations := rfl
@[simp] theorem setAttrs_loopA (s : State) (c : Nat) (a : CircuitAttrs) : (s.setAttrs c a).loopA = s.loopA := rfl
@[simp] theorem setAttrs_loopB (s : State) (c : Nat) (a : CircuitAttrs) : (s.setAttrs c a).loopB = s.loopB := rfl
@[simp] theorem setAttrs_queue (s : State) (c : Nat) (a : CircuitAttrs) : (s.setAttrs c a).queue = s.queue := rfl
@[simp] theorem setAttrs_current (s : State) (c : Nat) (a : CircuitAttrs) : (s.setAttrs c a).current = s.current := rfl
@[simp] theorem setAttrs_holds (s : State) (c : Nat) (a : CircuitAttrs) : (s.setAttrs c a).holds = s.holds := rfl
@[simp] theorem setAttrs_circuits (s : State) (c : Nat) (a : CircuitAttrs) : (s.setAttrs c a).circuits = s.circuits := rfl
@[simp] theorem setAttrs_mode (s : State) (c : Nat) (a : CircuitAttrs) : (s.setAttrs c a).mode = s.mode := rfl
@[simp] theorem setAttrs_lock (s : State) (c : Nat) (a : CircuitAttrs) : (s.setAttrs c a).lock = s.lock := rfl
@[simp] theorem setAttrs_panicLatch (s : State) (c : Nat) (a : CircuitAttrs) : (s.setAttrs c a).panicLatch = s.panicLatch := rfl
@[simp] theorem setAttrs_racks (s : State) (c : Nat) (a : CircuitAttrs) : (s.setAttrs c a).racks = s.racks := rfl
@[simp] theorem setAttrs_rackInFlight (s : State) (c : Nat) (a : CircuitAttrs) : (s.setAttrs c a).rackInFlight = s.rackInFlight := rfl
@[simp] theorem setAttrs_sweeper (s : State) (c : Nat) (a : CircuitAttrs) : (s.setAttrs c a).sweeper = s.sweeper := rfl
@[simp] theorem setAttrs_port (s : State) (c : Nat) (a : CircuitAttrs) : (s.setAttrs c a).port = s.port := rfl
@[simp] theorem setAttrs_sense (s : State) (c : Nat) (a : CircuitAttrs) : (s.setAttrs c a).sense = s.sense := rfl
@[simp] theorem setAttrs_refusal (s : State) (c : Nat) (a : CircuitAttrs) : (s.setAttrs c a).refusal = s.refusal := rfl
@[simp] theorem setAttrs_events (s : State) (c : Nat) (a : CircuitAttrs) : (s.setAttrs c a).events = s.events := rfl
@[simp] theorem setAttrs_mask (s : State) (c : Nat) (a : CircuitAttrs) : (s.setAttrs c a).mask = s.mask := rfl
@[simp] theorem setAttrs_pending (s : State) (c : Nat) (a : CircuitAttrs) : (s.setAttrs c a).pending = s.pending := rfl

@[simp] theorem setHolds_powered (s : State) (l : List Hold) : (s.setHolds l).powered = s.powered := rfl
@[simp] theorem setHolds_clock (s : State) (l : List Hold) : (s.setHolds l).clock = s.clock := rfl
@[simp] theorem setHolds_timers (s : State) (l : List Hold) : (s.setHolds l).timers = s.timers := rfl
@[simp] theorem setHolds_config (s : State) (l : List Hold) : (s.setHolds l).config = s.config := rfl
@[simp] theorem setHolds_store (s : State) (l : List Hold) : (s.setHolds l).store = s.store := rfl
@[simp] theorem setHolds_stations (s : State) (l : List Hold) : (s.setHolds l).stations = s.stations := rfl
@[simp] theorem setHolds_loopA (s : State) (l : List Hold) : (s.setHolds l).loopA = s.loopA := rfl
@[simp] theorem setHolds_loopB (s : State) (l : List Hold) : (s.setHolds l).loopB = s.loopB := rfl
@[simp] theorem setHolds_queue (s : State) (l : List Hold) : (s.setHolds l).queue = s.queue := rfl
@[simp] theorem setHolds_current (s : State) (l : List Hold) : (s.setHolds l).current = s.current := rfl
@[simp] theorem setHolds_holds (s : State) (l : List Hold) : (s.setHolds l).holds = l := rfl
@[simp] theorem setHolds_circuits (s : State) (l : List Hold) : (s.setHolds l).circuits = s.circuits := rfl
@[simp] theorem setHolds_mode (s : State) (l : List Hold) : (s.setHolds l).mode = s.mode := rfl
@[simp] theorem setHolds_lock (s : State) (l : List Hold) : (s.setHolds l).lock = s.lock := rfl
@[simp] theorem setHolds_panicLatch (s : State) (l : List Hold) : (s.setHolds l).panicLatch = s.panicLatch := rfl
@[simp] theorem setHolds_racks (s : State) (l : List Hold) : (s.setHolds l).racks = s.racks := rfl
@[simp] theorem setHolds_rackInFlight (s : State) (l : List Hold) : (s.setHolds l).rackInFlight = s.rackInFlight := rfl
@[simp] theorem setHolds_sweeper (s : State) (l : List Hold) : (s.setHolds l).sweeper = s.sweeper := rfl
@[simp] theorem setHolds_port (s : State) (l : List Hold) : (s.setHolds l).port = s.port := rfl
@[simp] theorem setHolds_sense (s : State) (l : List Hold) : (s.setHolds l).sense = s.sense := rfl
@[simp] theorem setHolds_refusal (s : State) (l : List Hold) : (s.setHolds l).refusal = s.refusal := rfl
@[simp] theorem setHolds_events (s : State) (l : List Hold) : (s.setHolds l).events = s.events := rfl
@[simp] theorem setHolds_mask (s : State) (l : List Hold) : (s.setHolds l).mask = s.mask := rfl
@[simp] theorem setHolds_pending (s : State) (l : List Hold) : (s.setHolds l).pending = s.pending := rfl

@[simp] theorem shiftFrame_powered (s : State) (edges : Nat) : (s.shiftFrame edges).powered = s.powered := rfl
@[simp] theorem shiftFrame_clock (s : State) (edges : Nat) : (s.shiftFrame edges).clock = s.clock := rfl
@[simp] theorem shiftFrame_timers (s : State) (edges : Nat) : (s.shiftFrame edges).timers = s.timers := rfl
@[simp] theorem shiftFrame_config (s : State) (edges : Nat) : (s.shiftFrame edges).config = s.config := rfl
@[simp] theorem shiftFrame_store (s : State) (edges : Nat) : (s.shiftFrame edges).store = s.store := rfl
@[simp] theorem shiftFrame_stations (s : State) (edges : Nat) : (s.shiftFrame edges).stations = s.stations := rfl
@[simp] theorem shiftFrame_loopA (s : State) (edges : Nat) : (s.shiftFrame edges).loopA = s.loopA := rfl
@[simp] theorem shiftFrame_loopB (s : State) (edges : Nat) : (s.shiftFrame edges).loopB = s.loopB := rfl
@[simp] theorem shiftFrame_queue (s : State) (edges : Nat) : (s.shiftFrame edges).queue = s.queue := rfl
@[simp] theorem shiftFrame_current (s : State) (edges : Nat) : (s.shiftFrame edges).current = s.current := rfl
@[simp] theorem shiftFrame_holds (s : State) (edges : Nat) : (s.shiftFrame edges).holds = s.holds := rfl
@[simp] theorem shiftFrame_circuits (s : State) (edges : Nat) : (s.shiftFrame edges).circuits = s.circuits := rfl
@[simp] theorem shiftFrame_mode (s : State) (edges : Nat) : (s.shiftFrame edges).mode = s.mode := rfl
@[simp] theorem shiftFrame_lock (s : State) (edges : Nat) : (s.shiftFrame edges).lock = s.lock := rfl
@[simp] theorem shiftFrame_panicLatch (s : State) (edges : Nat) : (s.shiftFrame edges).panicLatch = s.panicLatch := rfl
@[simp] theorem shiftFrame_racks (s : State) (edges : Nat) : (s.shiftFrame edges).racks = s.racks := rfl
@[simp] theorem shiftFrame_rackInFlight (s : State) (edges : Nat) : (s.shiftFrame edges).rackInFlight = s.rackInFlight := rfl
@[simp] theorem shiftFrame_sweeper (s : State) (edges : Nat) : (s.shiftFrame edges).sweeper = s.sweeper := rfl
@[simp] theorem shiftFrame_sense (s : State) (edges : Nat) : (s.shiftFrame edges).sense = s.sense := rfl
@[simp] theorem shiftFrame_refusal (s : State) (edges : Nat) : (s.shiftFrame edges).refusal = s.refusal := rfl
@[simp] theorem shiftFrame_events (s : State) (edges : Nat) : (s.shiftFrame edges).events = s.events := rfl
@[simp] theorem shiftFrame_mask (s : State) (edges : Nat) : (s.shiftFrame edges).mask = s.mask := rfl
@[simp] theorem shiftFrame_pending (s : State) (edges : Nat) : (s.shiftFrame edges).pending = s.pending := rfl

@[simp] theorem writeSense_powered (s : State) (command : Byte) (result : ResultCode) (ref : SenseRef) : (s.writeSense command result ref).powered = s.powered := rfl
@[simp] theorem writeSense_clock (s : State) (command : Byte) (result : ResultCode) (ref : SenseRef) : (s.writeSense command result ref).clock = s.clock := rfl
@[simp] theorem writeSense_timers (s : State) (command : Byte) (result : ResultCode) (ref : SenseRef) : (s.writeSense command result ref).timers = s.timers := rfl
@[simp] theorem writeSense_config (s : State) (command : Byte) (result : ResultCode) (ref : SenseRef) : (s.writeSense command result ref).config = s.config := rfl
@[simp] theorem writeSense_store (s : State) (command : Byte) (result : ResultCode) (ref : SenseRef) : (s.writeSense command result ref).store = s.store := rfl
@[simp] theorem writeSense_stations (s : State) (command : Byte) (result : ResultCode) (ref : SenseRef) : (s.writeSense command result ref).stations = s.stations := rfl
@[simp] theorem writeSense_loopA (s : State) (command : Byte) (result : ResultCode) (ref : SenseRef) : (s.writeSense command result ref).loopA = s.loopA := rfl
@[simp] theorem writeSense_loopB (s : State) (command : Byte) (result : ResultCode) (ref : SenseRef) : (s.writeSense command result ref).loopB = s.loopB := rfl
@[simp] theorem writeSense_queue (s : State) (command : Byte) (result : ResultCode) (ref : SenseRef) : (s.writeSense command result ref).queue = s.queue := rfl
@[simp] theorem writeSense_current (s : State) (command : Byte) (result : ResultCode) (ref : SenseRef) : (s.writeSense command result ref).current = s.current := rfl
@[simp] theorem writeSense_holds (s : State) (command : Byte) (result : ResultCode) (ref : SenseRef) : (s.writeSense command result ref).holds = s.holds := rfl
@[simp] theorem writeSense_circuits (s : State) (command : Byte) (result : ResultCode) (ref : SenseRef) : (s.writeSense command result ref).circuits = s.circuits := rfl
@[simp] theorem writeSense_mode (s : State) (command : Byte) (result : ResultCode) (ref : SenseRef) : (s.writeSense command result ref).mode = s.mode := rfl
@[simp] theorem writeSense_lock (s : State) (command : Byte) (result : ResultCode) (ref : SenseRef) : (s.writeSense command result ref).lock = s.lock := rfl
@[simp] theorem writeSense_panicLatch (s : State) (command : Byte) (result : ResultCode) (ref : SenseRef) : (s.writeSense command result ref).panicLatch = s.panicLatch := rfl
@[simp] theorem writeSense_racks (s : State) (command : Byte) (result : ResultCode) (ref : SenseRef) : (s.writeSense command result ref).racks = s.racks := rfl
@[simp] theorem writeSense_rackInFlight (s : State) (command : Byte) (result : ResultCode) (ref : SenseRef) : (s.writeSense command result ref).rackInFlight = s.rackInFlight := rfl
@[simp] theorem writeSense_sweeper (s : State) (command : Byte) (result : ResultCode) (ref : SenseRef) : (s.writeSense command result ref).sweeper = s.sweeper := rfl
@[simp] theorem writeSense_port (s : State) (command : Byte) (result : ResultCode) (ref : SenseRef) : (s.writeSense command result ref).port = s.port := rfl
@[simp] theorem writeSense_refusal (s : State) (command : Byte) (result : ResultCode) (ref : SenseRef) : (s.writeSense command result ref).refusal = s.refusal := rfl
@[simp] theorem writeSense_events (s : State) (command : Byte) (result : ResultCode) (ref : SenseRef) : (s.writeSense command result ref).events = s.events := rfl
@[simp] theorem writeSense_mask (s : State) (command : Byte) (result : ResultCode) (ref : SenseRef) : (s.writeSense command result ref).mask = s.mask := rfl
@[simp] theorem writeSense_pending (s : State) (command : Byte) (result : ResultCode) (ref : SenseRef) : (s.writeSense command result ref).pending = s.pending := rfl

@[simp] theorem latchStation_powered (s : State) (n : Nat) : (s.latchStation n).powered = s.powered := rfl
@[simp] theorem latchStation_clock (s : State) (n : Nat) : (s.latchStation n).clock = s.clock := rfl
@[simp] theorem latchStation_timers (s : State) (n : Nat) : (s.latchStation n).timers = s.timers := rfl
@[simp] theorem latchStation_config (s : State) (n : Nat) : (s.latchStation n).config = s.config := rfl
@[simp] theorem latchStation_store (s : State) (n : Nat) : (s.latchStation n).store = s.store := rfl
@[simp] theorem latchStation_stations (s : State) (n : Nat) : (s.latchStation n).stations = s.stations := rfl
@[simp] theorem latchStation_loopA (s : State) (n : Nat) : (s.latchStation n).loopA = s.loopA := rfl
@[simp] theorem latchStation_loopB (s : State) (n : Nat) : (s.latchStation n).loopB = s.loopB := rfl
@[simp] theorem latchStation_queue (s : State) (n : Nat) : (s.latchStation n).queue = s.queue := rfl
@[simp] theorem latchStation_current (s : State) (n : Nat) : (s.latchStation n).current = s.current := rfl
@[simp] theorem latchStation_holds (s : State) (n : Nat) : (s.latchStation n).holds = s.holds := rfl
@[simp] theorem latchStation_circuits (s : State) (n : Nat) : (s.latchStation n).circuits = s.circuits := rfl
@[simp] theorem latchStation_mode (s : State) (n : Nat) : (s.latchStation n).mode = s.mode := rfl
@[simp] theorem latchStation_lock (s : State) (n : Nat) : (s.latchStation n).lock = s.lock := rfl
@[simp] theorem latchStation_panicLatch (s : State) (n : Nat) : (s.latchStation n).panicLatch = s.panicLatch := rfl
@[simp] theorem latchStation_racks (s : State) (n : Nat) : (s.latchStation n).racks = s.racks := rfl
@[simp] theorem latchStation_rackInFlight (s : State) (n : Nat) : (s.latchStation n).rackInFlight = s.rackInFlight := rfl
@[simp] theorem latchStation_sweeper (s : State) (n : Nat) : (s.latchStation n).sweeper = s.sweeper := rfl
@[simp] theorem latchStation_port (s : State) (n : Nat) : (s.latchStation n).port = s.port := rfl
@[simp] theorem latchStation_sense (s : State) (n : Nat) : (s.latchStation n).sense = s.sense := rfl
@[simp] theorem latchStation_refusal (s : State) (n : Nat) : (s.latchStation n).refusal = s.refusal := rfl
@[simp] theorem latchStation_mask (s : State) (n : Nat) : (s.latchStation n).mask = s.mask := rfl
@[simp] theorem latchStation_pending (s : State) (n : Nat) : (s.latchStation n).pending = s.pending := rfl

@[simp] theorem latchPress_powered (s : State) (code : PressRefusal) : (s.latchPress code).powered = s.powered := rfl
@[simp] theorem latchPress_clock (s : State) (code : PressRefusal) : (s.latchPress code).clock = s.clock := rfl
@[simp] theorem latchPress_timers (s : State) (code : PressRefusal) : (s.latchPress code).timers = s.timers := rfl
@[simp] theorem latchPress_config (s : State) (code : PressRefusal) : (s.latchPress code).config = s.config := rfl
@[simp] theorem latchPress_store (s : State) (code : PressRefusal) : (s.latchPress code).store = s.store := rfl
@[simp] theorem latchPress_stations (s : State) (code : PressRefusal) : (s.latchPress code).stations = s.stations := rfl
@[simp] theorem latchPress_loopA (s : State) (code : PressRefusal) : (s.latchPress code).loopA = s.loopA := rfl
@[simp] theorem latchPress_loopB (s : State) (code : PressRefusal) : (s.latchPress code).loopB = s.loopB := rfl
@[simp] theorem latchPress_queue (s : State) (code : PressRefusal) : (s.latchPress code).queue = s.queue := rfl
@[simp] theorem latchPress_current (s : State) (code : PressRefusal) : (s.latchPress code).current = s.current := rfl
@[simp] theorem latchPress_holds (s : State) (code : PressRefusal) : (s.latchPress code).holds = s.holds := rfl
@[simp] theorem latchPress_circuits (s : State) (code : PressRefusal) : (s.latchPress code).circuits = s.circuits := rfl
@[simp] theorem latchPress_mode (s : State) (code : PressRefusal) : (s.latchPress code).mode = s.mode := rfl
@[simp] theorem latchPress_lock (s : State) (code : PressRefusal) : (s.latchPress code).lock = s.lock := rfl
@[simp] theorem latchPress_panicLatch (s : State) (code : PressRefusal) : (s.latchPress code).panicLatch = s.panicLatch := rfl
@[simp] theorem latchPress_racks (s : State) (code : PressRefusal) : (s.latchPress code).racks = s.racks := rfl
@[simp] theorem latchPress_rackInFlight (s : State) (code : PressRefusal) : (s.latchPress code).rackInFlight = s.rackInFlight := rfl
@[simp] theorem latchPress_sweeper (s : State) (code : PressRefusal) : (s.latchPress code).sweeper = s.sweeper := rfl
@[simp] theorem latchPress_port (s : State) (code : PressRefusal) : (s.latchPress code).port = s.port := rfl
@[simp] theorem latchPress_sense (s : State) (code : PressRefusal) : (s.latchPress code).sense = s.sense := rfl
@[simp] theorem latchPress_refusal (s : State) (code : PressRefusal) : (s.latchPress code).refusal = s.refusal := rfl
@[simp] theorem latchPress_mask (s : State) (code : PressRefusal) : (s.latchPress code).mask = s.mask := rfl
@[simp] theorem latchPress_pending (s : State) (code : PressRefusal) : (s.latchPress code).pending = s.pending := rfl

@[simp] theorem latchCircuit_powered (s : State) (c : Nat) : (s.latchCircuit c).powered = s.powered := rfl
@[simp] theorem latchCircuit_clock (s : State) (c : Nat) : (s.latchCircuit c).clock = s.clock := rfl
@[simp] theorem latchCircuit_timers (s : State) (c : Nat) : (s.latchCircuit c).timers = s.timers := rfl
@[simp] theorem latchCircuit_config (s : State) (c : Nat) : (s.latchCircuit c).config = s.config := rfl
@[simp] theorem latchCircuit_store (s : State) (c : Nat) : (s.latchCircuit c).store = s.store := rfl
@[simp] theorem latchCircuit_stations (s : State) (c : Nat) : (s.latchCircuit c).stations = s.stations := rfl
@[simp] theorem latchCircuit_loopA (s : State) (c : Nat) : (s.latchCircuit c).loopA = s.loopA := rfl
@[simp] theorem latchCircuit_loopB (s : State) (c : Nat) : (s.latchCircuit c).loopB = s.loopB := rfl
@[simp] theorem latchCircuit_queue (s : State) (c : Nat) : (s.latchCircuit c).queue = s.queue := rfl
@[simp] theorem latchCircuit_current (s : State) (c : Nat) : (s.latchCircuit c).current = s.current := rfl
@[simp] theorem latchCircuit_holds (s : State) (c : Nat) : (s.latchCircuit c).holds = s.holds := rfl
@[simp] theorem latchCircuit_circuits (s : State) (c : Nat) : (s.latchCircuit c).circuits = s.circuits := rfl
@[simp] theorem latchCircuit_mode (s : State) (c : Nat) : (s.latchCircuit c).mode = s.mode := rfl
@[simp] theorem latchCircuit_lock (s : State) (c : Nat) : (s.latchCircuit c).lock = s.lock := rfl
@[simp] theorem latchCircuit_panicLatch (s : State) (c : Nat) : (s.latchCircuit c).panicLatch = s.panicLatch := rfl
@[simp] theorem latchCircuit_racks (s : State) (c : Nat) : (s.latchCircuit c).racks = s.racks := rfl
@[simp] theorem latchCircuit_rackInFlight (s : State) (c : Nat) : (s.latchCircuit c).rackInFlight = s.rackInFlight := rfl
@[simp] theorem latchCircuit_sweeper (s : State) (c : Nat) : (s.latchCircuit c).sweeper = s.sweeper := rfl
@[simp] theorem latchCircuit_port (s : State) (c : Nat) : (s.latchCircuit c).port = s.port := rfl
@[simp] theorem latchCircuit_sense (s : State) (c : Nat) : (s.latchCircuit c).sense = s.sense := rfl
@[simp] theorem latchCircuit_refusal (s : State) (c : Nat) : (s.latchCircuit c).refusal = s.refusal := rfl
@[simp] theorem latchCircuit_mask (s : State) (c : Nat) : (s.latchCircuit c).mask = s.mask := rfl
@[simp] theorem latchCircuit_pending (s : State) (c : Nat) : (s.latchCircuit c).pending = s.pending := rfl

@[simp] theorem latchRack_powered (s : State) (r : Nat) (new : RackState) : (s.latchRack r new).powered = s.powered := rfl
@[simp] theorem latchRack_clock (s : State) (r : Nat) (new : RackState) : (s.latchRack r new).clock = s.clock := rfl
@[simp] theorem latchRack_timers (s : State) (r : Nat) (new : RackState) : (s.latchRack r new).timers = s.timers := rfl
@[simp] theorem latchRack_config (s : State) (r : Nat) (new : RackState) : (s.latchRack r new).config = s.config := rfl
@[simp] theorem latchRack_store (s : State) (r : Nat) (new : RackState) : (s.latchRack r new).store = s.store := rfl
@[simp] theorem latchRack_stations (s : State) (r : Nat) (new : RackState) : (s.latchRack r new).stations = s.stations := rfl
@[simp] theorem latchRack_loopA (s : State) (r : Nat) (new : RackState) : (s.latchRack r new).loopA = s.loopA := rfl
@[simp] theorem latchRack_loopB (s : State) (r : Nat) (new : RackState) : (s.latchRack r new).loopB = s.loopB := rfl
@[simp] theorem latchRack_queue (s : State) (r : Nat) (new : RackState) : (s.latchRack r new).queue = s.queue := rfl
@[simp] theorem latchRack_current (s : State) (r : Nat) (new : RackState) : (s.latchRack r new).current = s.current := rfl
@[simp] theorem latchRack_holds (s : State) (r : Nat) (new : RackState) : (s.latchRack r new).holds = s.holds := rfl
@[simp] theorem latchRack_circuits (s : State) (r : Nat) (new : RackState) : (s.latchRack r new).circuits = s.circuits := rfl
@[simp] theorem latchRack_mode (s : State) (r : Nat) (new : RackState) : (s.latchRack r new).mode = s.mode := rfl
@[simp] theorem latchRack_lock (s : State) (r : Nat) (new : RackState) : (s.latchRack r new).lock = s.lock := rfl
@[simp] theorem latchRack_panicLatch (s : State) (r : Nat) (new : RackState) : (s.latchRack r new).panicLatch = s.panicLatch := rfl
@[simp] theorem latchRack_racks (s : State) (r : Nat) (new : RackState) : (s.latchRack r new).racks = s.racks := rfl
@[simp] theorem latchRack_rackInFlight (s : State) (r : Nat) (new : RackState) : (s.latchRack r new).rackInFlight = s.rackInFlight := rfl
@[simp] theorem latchRack_sweeper (s : State) (r : Nat) (new : RackState) : (s.latchRack r new).sweeper = s.sweeper := rfl
@[simp] theorem latchRack_port (s : State) (r : Nat) (new : RackState) : (s.latchRack r new).port = s.port := rfl
@[simp] theorem latchRack_sense (s : State) (r : Nat) (new : RackState) : (s.latchRack r new).sense = s.sense := rfl
@[simp] theorem latchRack_refusal (s : State) (r : Nat) (new : RackState) : (s.latchRack r new).refusal = s.refusal := rfl
@[simp] theorem latchRack_mask (s : State) (r : Nat) (new : RackState) : (s.latchRack r new).mask = s.mask := rfl
@[simp] theorem latchRack_pending (s : State) (r : Nat) (new : RackState) : (s.latchRack r new).pending = s.pending := rfl

@[simp] theorem latchMode_powered (s : State) (mode : Mode) (cause : ModeCause) : (s.latchMode mode cause).powered = s.powered := rfl
@[simp] theorem latchMode_clock (s : State) (mode : Mode) (cause : ModeCause) : (s.latchMode mode cause).clock = s.clock := rfl
@[simp] theorem latchMode_timers (s : State) (mode : Mode) (cause : ModeCause) : (s.latchMode mode cause).timers = s.timers := rfl
@[simp] theorem latchMode_config (s : State) (mode : Mode) (cause : ModeCause) : (s.latchMode mode cause).config = s.config := rfl
@[simp] theorem latchMode_store (s : State) (mode : Mode) (cause : ModeCause) : (s.latchMode mode cause).store = s.store := rfl
@[simp] theorem latchMode_stations (s : State) (mode : Mode) (cause : ModeCause) : (s.latchMode mode cause).stations = s.stations := rfl
@[simp] theorem latchMode_loopA (s : State) (mode : Mode) (cause : ModeCause) : (s.latchMode mode cause).loopA = s.loopA := rfl
@[simp] theorem latchMode_loopB (s : State) (mode : Mode) (cause : ModeCause) : (s.latchMode mode cause).loopB = s.loopB := rfl
@[simp] theorem latchMode_queue (s : State) (mode : Mode) (cause : ModeCause) : (s.latchMode mode cause).queue = s.queue := rfl
@[simp] theorem latchMode_current (s : State) (mode : Mode) (cause : ModeCause) : (s.latchMode mode cause).current = s.current := rfl
@[simp] theorem latchMode_holds (s : State) (mode : Mode) (cause : ModeCause) : (s.latchMode mode cause).holds = s.holds := rfl
@[simp] theorem latchMode_circuits (s : State) (mode : Mode) (cause : ModeCause) : (s.latchMode mode cause).circuits = s.circuits := rfl
@[simp] theorem latchMode_mode (s : State) (mode : Mode) (cause : ModeCause) : (s.latchMode mode cause).mode = s.mode := rfl
@[simp] theorem latchMode_lock (s : State) (mode : Mode) (cause : ModeCause) : (s.latchMode mode cause).lock = s.lock := rfl
@[simp] theorem latchMode_panicLatch (s : State) (mode : Mode) (cause : ModeCause) : (s.latchMode mode cause).panicLatch = s.panicLatch := rfl
@[simp] theorem latchMode_racks (s : State) (mode : Mode) (cause : ModeCause) : (s.latchMode mode cause).racks = s.racks := rfl
@[simp] theorem latchMode_rackInFlight (s : State) (mode : Mode) (cause : ModeCause) : (s.latchMode mode cause).rackInFlight = s.rackInFlight := rfl
@[simp] theorem latchMode_sweeper (s : State) (mode : Mode) (cause : ModeCause) : (s.latchMode mode cause).sweeper = s.sweeper := rfl
@[simp] theorem latchMode_port (s : State) (mode : Mode) (cause : ModeCause) : (s.latchMode mode cause).port = s.port := rfl
@[simp] theorem latchMode_sense (s : State) (mode : Mode) (cause : ModeCause) : (s.latchMode mode cause).sense = s.sense := rfl
@[simp] theorem latchMode_refusal (s : State) (mode : Mode) (cause : ModeCause) : (s.latchMode mode cause).refusal = s.refusal := rfl
@[simp] theorem latchMode_mask (s : State) (mode : Mode) (cause : ModeCause) : (s.latchMode mode cause).mask = s.mask := rfl
@[simp] theorem latchMode_pending (s : State) (mode : Mode) (cause : ModeCause) : (s.latchMode mode cause).pending = s.pending := rfl

@[simp] theorem latchSweep_powered (s : State) (outcome : SweepOutcome) (job : SweepJob) (changed : Nat) : (s.latchSweep outcome job changed).powered = s.powered := rfl
@[simp] theorem latchSweep_clock (s : State) (outcome : SweepOutcome) (job : SweepJob) (changed : Nat) : (s.latchSweep outcome job changed).clock = s.clock := rfl
@[simp] theorem latchSweep_timers (s : State) (outcome : SweepOutcome) (job : SweepJob) (changed : Nat) : (s.latchSweep outcome job changed).timers = s.timers := rfl
@[simp] theorem latchSweep_config (s : State) (outcome : SweepOutcome) (job : SweepJob) (changed : Nat) : (s.latchSweep outcome job changed).config = s.config := rfl
@[simp] theorem latchSweep_store (s : State) (outcome : SweepOutcome) (job : SweepJob) (changed : Nat) : (s.latchSweep outcome job changed).store = s.store := rfl
@[simp] theorem latchSweep_stations (s : State) (outcome : SweepOutcome) (job : SweepJob) (changed : Nat) : (s.latchSweep outcome job changed).stations = s.stations := rfl
@[simp] theorem latchSweep_loopA (s : State) (outcome : SweepOutcome) (job : SweepJob) (changed : Nat) : (s.latchSweep outcome job changed).loopA = s.loopA := rfl
@[simp] theorem latchSweep_loopB (s : State) (outcome : SweepOutcome) (job : SweepJob) (changed : Nat) : (s.latchSweep outcome job changed).loopB = s.loopB := rfl
@[simp] theorem latchSweep_queue (s : State) (outcome : SweepOutcome) (job : SweepJob) (changed : Nat) : (s.latchSweep outcome job changed).queue = s.queue := rfl
@[simp] theorem latchSweep_current (s : State) (outcome : SweepOutcome) (job : SweepJob) (changed : Nat) : (s.latchSweep outcome job changed).current = s.current := rfl
@[simp] theorem latchSweep_holds (s : State) (outcome : SweepOutcome) (job : SweepJob) (changed : Nat) : (s.latchSweep outcome job changed).holds = s.holds := rfl
@[simp] theorem latchSweep_circuits (s : State) (outcome : SweepOutcome) (job : SweepJob) (changed : Nat) : (s.latchSweep outcome job changed).circuits = s.circuits := rfl
@[simp] theorem latchSweep_mode (s : State) (outcome : SweepOutcome) (job : SweepJob) (changed : Nat) : (s.latchSweep outcome job changed).mode = s.mode := rfl
@[simp] theorem latchSweep_lock (s : State) (outcome : SweepOutcome) (job : SweepJob) (changed : Nat) : (s.latchSweep outcome job changed).lock = s.lock := rfl
@[simp] theorem latchSweep_panicLatch (s : State) (outcome : SweepOutcome) (job : SweepJob) (changed : Nat) : (s.latchSweep outcome job changed).panicLatch = s.panicLatch := rfl
@[simp] theorem latchSweep_racks (s : State) (outcome : SweepOutcome) (job : SweepJob) (changed : Nat) : (s.latchSweep outcome job changed).racks = s.racks := rfl
@[simp] theorem latchSweep_rackInFlight (s : State) (outcome : SweepOutcome) (job : SweepJob) (changed : Nat) : (s.latchSweep outcome job changed).rackInFlight = s.rackInFlight := rfl
@[simp] theorem latchSweep_sweeper (s : State) (outcome : SweepOutcome) (job : SweepJob) (changed : Nat) : (s.latchSweep outcome job changed).sweeper = s.sweeper := rfl
@[simp] theorem latchSweep_port (s : State) (outcome : SweepOutcome) (job : SweepJob) (changed : Nat) : (s.latchSweep outcome job changed).port = s.port := rfl
@[simp] theorem latchSweep_sense (s : State) (outcome : SweepOutcome) (job : SweepJob) (changed : Nat) : (s.latchSweep outcome job changed).sense = s.sense := rfl
@[simp] theorem latchSweep_refusal (s : State) (outcome : SweepOutcome) (job : SweepJob) (changed : Nat) : (s.latchSweep outcome job changed).refusal = s.refusal := rfl
@[simp] theorem latchSweep_mask (s : State) (outcome : SweepOutcome) (job : SweepJob) (changed : Nat) : (s.latchSweep outcome job changed).mask = s.mask := rfl
@[simp] theorem latchSweep_pending (s : State) (outcome : SweepOutcome) (job : SweepJob) (changed : Nat) : (s.latchSweep outcome job changed).pending = s.pending := rfl

@[simp] theorem latchStore_powered (s : State) (outcome : StoreOutcome) : (s.latchStore outcome).powered = s.powered := rfl
@[simp] theorem latchStore_clock (s : State) (outcome : StoreOutcome) : (s.latchStore outcome).clock = s.clock := rfl
@[simp] theorem latchStore_timers (s : State) (outcome : StoreOutcome) : (s.latchStore outcome).timers = s.timers := rfl
@[simp] theorem latchStore_config (s : State) (outcome : StoreOutcome) : (s.latchStore outcome).config = s.config := rfl
@[simp] theorem latchStore_store (s : State) (outcome : StoreOutcome) : (s.latchStore outcome).store = s.store := rfl
@[simp] theorem latchStore_stations (s : State) (outcome : StoreOutcome) : (s.latchStore outcome).stations = s.stations := rfl
@[simp] theorem latchStore_loopA (s : State) (outcome : StoreOutcome) : (s.latchStore outcome).loopA = s.loopA := rfl
@[simp] theorem latchStore_loopB (s : State) (outcome : StoreOutcome) : (s.latchStore outcome).loopB = s.loopB := rfl
@[simp] theorem latchStore_queue (s : State) (outcome : StoreOutcome) : (s.latchStore outcome).queue = s.queue := rfl
@[simp] theorem latchStore_current (s : State) (outcome : StoreOutcome) : (s.latchStore outcome).current = s.current := rfl
@[simp] theorem latchStore_holds (s : State) (outcome : StoreOutcome) : (s.latchStore outcome).holds = s.holds := rfl
@[simp] theorem latchStore_circuits (s : State) (outcome : StoreOutcome) : (s.latchStore outcome).circuits = s.circuits := rfl
@[simp] theorem latchStore_mode (s : State) (outcome : StoreOutcome) : (s.latchStore outcome).mode = s.mode := rfl
@[simp] theorem latchStore_lock (s : State) (outcome : StoreOutcome) : (s.latchStore outcome).lock = s.lock := rfl
@[simp] theorem latchStore_panicLatch (s : State) (outcome : StoreOutcome) : (s.latchStore outcome).panicLatch = s.panicLatch := rfl
@[simp] theorem latchStore_racks (s : State) (outcome : StoreOutcome) : (s.latchStore outcome).racks = s.racks := rfl
@[simp] theorem latchStore_rackInFlight (s : State) (outcome : StoreOutcome) : (s.latchStore outcome).rackInFlight = s.rackInFlight := rfl
@[simp] theorem latchStore_sweeper (s : State) (outcome : StoreOutcome) : (s.latchStore outcome).sweeper = s.sweeper := rfl
@[simp] theorem latchStore_port (s : State) (outcome : StoreOutcome) : (s.latchStore outcome).port = s.port := rfl
@[simp] theorem latchStore_sense (s : State) (outcome : StoreOutcome) : (s.latchStore outcome).sense = s.sense := rfl
@[simp] theorem latchStore_refusal (s : State) (outcome : StoreOutcome) : (s.latchStore outcome).refusal = s.refusal := rfl
@[simp] theorem latchStore_mask (s : State) (outcome : StoreOutcome) : (s.latchStore outcome).mask = s.mask := rfl
@[simp] theorem latchStore_pending (s : State) (outcome : StoreOutcome) : (s.latchStore outcome).pending = s.pending := rfl

@[simp] theorem recomputeImages_powered (s : State) (after : State) : (s.recomputeImages after).powered = after.powered := rfl
@[simp] theorem recomputeImages_clock (s : State) (after : State) : (s.recomputeImages after).clock = after.clock := rfl
@[simp] theorem recomputeImages_timers (s : State) (after : State) : (s.recomputeImages after).timers = after.timers := rfl
@[simp] theorem recomputeImages_config (s : State) (after : State) : (s.recomputeImages after).config = after.config := rfl
@[simp] theorem recomputeImages_store (s : State) (after : State) : (s.recomputeImages after).store = after.store := rfl
@[simp] theorem recomputeImages_stations (s : State) (after : State) : (s.recomputeImages after).stations = after.stations.mapNumbered (s.recomputeOne after) := rfl
@[simp] theorem recomputeImages_loopA (s : State) (after : State) : (s.recomputeImages after).loopA = after.loopA := rfl
@[simp] theorem recomputeImages_loopB (s : State) (after : State) : (s.recomputeImages after).loopB = after.loopB := rfl
@[simp] theorem recomputeImages_queue (s : State) (after : State) : (s.recomputeImages after).queue = after.queue := rfl
@[simp] theorem recomputeImages_current (s : State) (after : State) : (s.recomputeImages after).current = after.current := rfl
@[simp] theorem recomputeImages_holds (s : State) (after : State) : (s.recomputeImages after).holds = after.holds := rfl
@[simp] theorem recomputeImages_circuits (s : State) (after : State) : (s.recomputeImages after).circuits = after.circuits := rfl
@[simp] theorem recomputeImages_mode (s : State) (after : State) : (s.recomputeImages after).mode = after.mode := rfl
@[simp] theorem recomputeImages_lock (s : State) (after : State) : (s.recomputeImages after).lock = after.lock := rfl
@[simp] theorem recomputeImages_panicLatch (s : State) (after : State) : (s.recomputeImages after).panicLatch = after.panicLatch := rfl
@[simp] theorem recomputeImages_racks (s : State) (after : State) : (s.recomputeImages after).racks = after.racks := rfl
@[simp] theorem recomputeImages_rackInFlight (s : State) (after : State) : (s.recomputeImages after).rackInFlight = after.rackInFlight := rfl
@[simp] theorem recomputeImages_sweeper (s : State) (after : State) : (s.recomputeImages after).sweeper = after.sweeper := rfl
@[simp] theorem recomputeImages_port (s : State) (after : State) : (s.recomputeImages after).port = after.port := rfl
@[simp] theorem recomputeImages_sense (s : State) (after : State) : (s.recomputeImages after).sense = after.sense := rfl
@[simp] theorem recomputeImages_refusal (s : State) (after : State) : (s.recomputeImages after).refusal = after.refusal := rfl
@[simp] theorem recomputeImages_events (s : State) (after : State) : (s.recomputeImages after).events = after.events := rfl
@[simp] theorem recomputeImages_mask (s : State) (after : State) : (s.recomputeImages after).mask = after.mask := rfl
@[simp] theorem recomputeImages_pending (s : State) (after : State) : (s.recomputeImages after).pending = after.pending := rfl

@[simp] theorem mark_powered (s : State) (c : Nat) (new : Option Nat) : (s.mark c new).powered = s.powered := rfl
@[simp] theorem mark_clock (s : State) (c : Nat) (new : Option Nat) : (s.mark c new).clock = s.clock := rfl
@[simp] theorem mark_timers (s : State) (c : Nat) (new : Option Nat) : (s.mark c new).timers = s.timers := rfl
@[simp] theorem mark_config (s : State) (c : Nat) (new : Option Nat) : (s.mark c new).config = s.config := rfl
@[simp] theorem mark_store (s : State) (c : Nat) (new : Option Nat) : (s.mark c new).store = s.store := rfl
@[simp] theorem mark_stations (s : State) (c : Nat) (new : Option Nat) : (s.mark c new).stations = s.stations := rfl
@[simp] theorem mark_loopA (s : State) (c : Nat) (new : Option Nat) : (s.mark c new).loopA = s.loopA := rfl
@[simp] theorem mark_loopB (s : State) (c : Nat) (new : Option Nat) : (s.mark c new).loopB = s.loopB := rfl
@[simp] theorem mark_queue (s : State) (c : Nat) (new : Option Nat) : (s.mark c new).queue = s.queue := rfl
@[simp] theorem mark_current (s : State) (c : Nat) (new : Option Nat) : (s.mark c new).current = s.current := rfl
@[simp] theorem mark_holds (s : State) (c : Nat) (new : Option Nat) : (s.mark c new).holds = s.holds := rfl
@[simp] theorem mark_circuits (s : State) (c : Nat) (new : Option Nat) : (s.mark c new).circuits = s.circuits.set c { s.circuit c with moving := new } := rfl
@[simp] theorem mark_mode (s : State) (c : Nat) (new : Option Nat) : (s.mark c new).mode = s.mode := rfl
@[simp] theorem mark_lock (s : State) (c : Nat) (new : Option Nat) : (s.mark c new).lock = s.lock := rfl
@[simp] theorem mark_panicLatch (s : State) (c : Nat) (new : Option Nat) : (s.mark c new).panicLatch = s.panicLatch := rfl
@[simp] theorem mark_racks (s : State) (c : Nat) (new : Option Nat) : (s.mark c new).racks = s.racks := rfl
@[simp] theorem mark_rackInFlight (s : State) (c : Nat) (new : Option Nat) : (s.mark c new).rackInFlight = s.rackInFlight := rfl
@[simp] theorem mark_sweeper (s : State) (c : Nat) (new : Option Nat) : (s.mark c new).sweeper = s.sweeper := rfl
@[simp] theorem mark_port (s : State) (c : Nat) (new : Option Nat) : (s.mark c new).port = s.port := rfl
@[simp] theorem mark_sense (s : State) (c : Nat) (new : Option Nat) : (s.mark c new).sense = s.sense := rfl
@[simp] theorem mark_refusal (s : State) (c : Nat) (new : Option Nat) : (s.mark c new).refusal = s.refusal := rfl
@[simp] theorem mark_events (s : State) (c : Nat) (new : Option Nat) : (s.mark c new).events = s.events := rfl
@[simp] theorem mark_mask (s : State) (c : Nat) (new : Option Nat) : (s.mark c new).mask = s.mask := rfl
@[simp] theorem mark_pending (s : State) (c : Nat) (new : Option Nat) : (s.mark c new).pending = s.pending := rfl

@[simp] theorem release_powered (s : State) (p : Hold → Bool) : (s.release p).powered = s.powered := rfl
@[simp] theorem release_clock (s : State) (p : Hold → Bool) : (s.release p).clock = s.clock := rfl
@[simp] theorem release_timers (s : State) (p : Hold → Bool) : (s.release p).timers = s.timers := rfl
@[simp] theorem release_config (s : State) (p : Hold → Bool) : (s.release p).config = s.config := rfl
@[simp] theorem release_store (s : State) (p : Hold → Bool) : (s.release p).store = s.store := rfl
@[simp] theorem release_stations (s : State) (p : Hold → Bool) : (s.release p).stations = s.stations := rfl
@[simp] theorem release_loopA (s : State) (p : Hold → Bool) : (s.release p).loopA = s.loopA := rfl
@[simp] theorem release_loopB (s : State) (p : Hold → Bool) : (s.release p).loopB = s.loopB := rfl
@[simp] theorem release_queue (s : State) (p : Hold → Bool) : (s.release p).queue = s.queue := rfl
@[simp] theorem release_current (s : State) (p : Hold → Bool) : (s.release p).current = s.current := rfl
@[simp] theorem release_holds (s : State) (p : Hold → Bool) : (s.release p).holds = releaseWhere p s.holds := rfl
@[simp] theorem release_circuits (s : State) (p : Hold → Bool) : (s.release p).circuits = s.circuits := rfl
@[simp] theorem release_mode (s : State) (p : Hold → Bool) : (s.release p).mode = s.mode := rfl
@[simp] theorem release_lock (s : State) (p : Hold → Bool) : (s.release p).lock = s.lock := rfl
@[simp] theorem release_panicLatch (s : State) (p : Hold → Bool) : (s.release p).panicLatch = s.panicLatch := rfl
@[simp] theorem release_racks (s : State) (p : Hold → Bool) : (s.release p).racks = s.racks := rfl
@[simp] theorem release_rackInFlight (s : State) (p : Hold → Bool) : (s.release p).rackInFlight = s.rackInFlight := rfl
@[simp] theorem release_sweeper (s : State) (p : Hold → Bool) : (s.release p).sweeper = s.sweeper := rfl
@[simp] theorem release_port (s : State) (p : Hold → Bool) : (s.release p).port = s.port := rfl
@[simp] theorem release_sense (s : State) (p : Hold → Bool) : (s.release p).sense = s.sense := rfl
@[simp] theorem release_refusal (s : State) (p : Hold → Bool) : (s.release p).refusal = s.refusal := rfl
@[simp] theorem release_events (s : State) (p : Hold → Bool) : (s.release p).events = s.events := rfl
@[simp] theorem release_mask (s : State) (p : Hold → Bool) : (s.release p).mask = s.mask := rfl
@[simp] theorem release_pending (s : State) (p : Hold → Bool) : (s.release p).pending = s.pending := rfl

@[simp] theorem removeHoldsOn_powered (s : State) (c : Nat) : (s.removeHoldsOn c).powered = s.powered := rfl
@[simp] theorem removeHoldsOn_clock (s : State) (c : Nat) : (s.removeHoldsOn c).clock = s.clock := rfl
@[simp] theorem removeHoldsOn_timers (s : State) (c : Nat) : (s.removeHoldsOn c).timers = s.timers := rfl
@[simp] theorem removeHoldsOn_config (s : State) (c : Nat) : (s.removeHoldsOn c).config = s.config := rfl
@[simp] theorem removeHoldsOn_store (s : State) (c : Nat) : (s.removeHoldsOn c).store = s.store := rfl
@[simp] theorem removeHoldsOn_stations (s : State) (c : Nat) : (s.removeHoldsOn c).stations = s.stations := rfl
@[simp] theorem removeHoldsOn_loopA (s : State) (c : Nat) : (s.removeHoldsOn c).loopA = s.loopA := rfl
@[simp] theorem removeHoldsOn_loopB (s : State) (c : Nat) : (s.removeHoldsOn c).loopB = s.loopB := rfl
@[simp] theorem removeHoldsOn_queue (s : State) (c : Nat) : (s.removeHoldsOn c).queue = s.queue := rfl
@[simp] theorem removeHoldsOn_current (s : State) (c : Nat) : (s.removeHoldsOn c).current = s.current := rfl
@[simp] theorem removeHoldsOn_holds (s : State) (c : Nat) : (s.removeHoldsOn c).holds = s.holds.filter (fun h => h.circuit != c) := rfl
@[simp] theorem removeHoldsOn_circuits (s : State) (c : Nat) : (s.removeHoldsOn c).circuits = s.circuits := rfl
@[simp] theorem removeHoldsOn_mode (s : State) (c : Nat) : (s.removeHoldsOn c).mode = s.mode := rfl
@[simp] theorem removeHoldsOn_lock (s : State) (c : Nat) : (s.removeHoldsOn c).lock = s.lock := rfl
@[simp] theorem removeHoldsOn_panicLatch (s : State) (c : Nat) : (s.removeHoldsOn c).panicLatch = s.panicLatch := rfl
@[simp] theorem removeHoldsOn_racks (s : State) (c : Nat) : (s.removeHoldsOn c).racks = s.racks := rfl
@[simp] theorem removeHoldsOn_rackInFlight (s : State) (c : Nat) : (s.removeHoldsOn c).rackInFlight = s.rackInFlight := rfl
@[simp] theorem removeHoldsOn_sweeper (s : State) (c : Nat) : (s.removeHoldsOn c).sweeper = s.sweeper := rfl
@[simp] theorem removeHoldsOn_port (s : State) (c : Nat) : (s.removeHoldsOn c).port = s.port := rfl
@[simp] theorem removeHoldsOn_sense (s : State) (c : Nat) : (s.removeHoldsOn c).sense = s.sense := rfl
@[simp] theorem removeHoldsOn_refusal (s : State) (c : Nat) : (s.removeHoldsOn c).refusal = s.refusal := rfl
@[simp] theorem removeHoldsOn_events (s : State) (c : Nat) : (s.removeHoldsOn c).events = s.events := rfl
@[simp] theorem removeHoldsOn_mask (s : State) (c : Nat) : (s.removeHoldsOn c).mask = s.mask := rfl
@[simp] theorem removeHoldsOn_pending (s : State) (c : Nat) : (s.removeHoldsOn c).pending = s.pending := rfl

@[simp] theorem moveHolds_powered (s : State) (old new : Nat) : (s.moveHolds old new).powered = s.powered := rfl
@[simp] theorem moveHolds_clock (s : State) (old new : Nat) : (s.moveHolds old new).clock = s.clock := rfl
@[simp] theorem moveHolds_timers (s : State) (old new : Nat) : (s.moveHolds old new).timers = s.timers := rfl
@[simp] theorem moveHolds_config (s : State) (old new : Nat) : (s.moveHolds old new).config = s.config := rfl
@[simp] theorem moveHolds_store (s : State) (old new : Nat) : (s.moveHolds old new).store = s.store := rfl
@[simp] theorem moveHolds_stations (s : State) (old new : Nat) : (s.moveHolds old new).stations = s.stations := rfl
@[simp] theorem moveHolds_loopA (s : State) (old new : Nat) : (s.moveHolds old new).loopA = s.loopA := rfl
@[simp] theorem moveHolds_loopB (s : State) (old new : Nat) : (s.moveHolds old new).loopB = s.loopB := rfl
@[simp] theorem moveHolds_queue (s : State) (old new : Nat) : (s.moveHolds old new).queue = s.queue := rfl
@[simp] theorem moveHolds_current (s : State) (old new : Nat) : (s.moveHolds old new).current = s.current := rfl
@[simp] theorem moveHolds_circuits (s : State) (old new : Nat) : (s.moveHolds old new).circuits = s.circuits := rfl
@[simp] theorem moveHolds_mode (s : State) (old new : Nat) : (s.moveHolds old new).mode = s.mode := rfl
@[simp] theorem moveHolds_lock (s : State) (old new : Nat) : (s.moveHolds old new).lock = s.lock := rfl
@[simp] theorem moveHolds_panicLatch (s : State) (old new : Nat) : (s.moveHolds old new).panicLatch = s.panicLatch := rfl
@[simp] theorem moveHolds_racks (s : State) (old new : Nat) : (s.moveHolds old new).racks = s.racks := rfl
@[simp] theorem moveHolds_rackInFlight (s : State) (old new : Nat) : (s.moveHolds old new).rackInFlight = s.rackInFlight := rfl
@[simp] theorem moveHolds_sweeper (s : State) (old new : Nat) : (s.moveHolds old new).sweeper = s.sweeper := rfl
@[simp] theorem moveHolds_port (s : State) (old new : Nat) : (s.moveHolds old new).port = s.port := rfl
@[simp] theorem moveHolds_sense (s : State) (old new : Nat) : (s.moveHolds old new).sense = s.sense := rfl
@[simp] theorem moveHolds_refusal (s : State) (old new : Nat) : (s.moveHolds old new).refusal = s.refusal := rfl
@[simp] theorem moveHolds_events (s : State) (old new : Nat) : (s.moveHolds old new).events = s.events := rfl
@[simp] theorem moveHolds_mask (s : State) (old new : Nat) : (s.moveHolds old new).mask = s.mask := rfl
@[simp] theorem moveHolds_pending (s : State) (old new : Nat) : (s.moveHolds old new).pending = s.pending := rfl

@[simp] theorem parkingPass_powered (s : State) : (s.parkingPass).powered = s.powered := rfl
@[simp] theorem parkingPass_clock (s : State) : (s.parkingPass).clock = s.clock := rfl
@[simp] theorem parkingPass_timers (s : State) : (s.parkingPass).timers = s.timers := rfl
@[simp] theorem parkingPass_config (s : State) : (s.parkingPass).config = s.config := rfl
@[simp] theorem parkingPass_store (s : State) : (s.parkingPass).store = s.store := rfl
@[simp] theorem parkingPass_stations (s : State) : (s.parkingPass).stations = s.stations := rfl
@[simp] theorem parkingPass_loopA (s : State) : (s.parkingPass).loopA = s.loopA := rfl
@[simp] theorem parkingPass_loopB (s : State) : (s.parkingPass).loopB = s.loopB := rfl
@[simp] theorem parkingPass_queue (s : State) : (s.parkingPass).queue = s.queue := rfl
@[simp] theorem parkingPass_current (s : State) : (s.parkingPass).current = s.current := rfl
@[simp] theorem parkingPass_holds (s : State) : (s.parkingPass).holds = s.holds.map (fun h => { h with parked := s.parks h.zone }) := rfl
@[simp] theorem parkingPass_circuits (s : State) : (s.parkingPass).circuits = s.circuits := rfl
@[simp] theorem parkingPass_mode (s : State) : (s.parkingPass).mode = s.mode := rfl
@[simp] theorem parkingPass_lock (s : State) : (s.parkingPass).lock = s.lock := rfl
@[simp] theorem parkingPass_panicLatch (s : State) : (s.parkingPass).panicLatch = s.panicLatch := rfl
@[simp] theorem parkingPass_racks (s : State) : (s.parkingPass).racks = s.racks := rfl
@[simp] theorem parkingPass_rackInFlight (s : State) : (s.parkingPass).rackInFlight = s.rackInFlight := rfl
@[simp] theorem parkingPass_sweeper (s : State) : (s.parkingPass).sweeper = s.sweeper := rfl
@[simp] theorem parkingPass_port (s : State) : (s.parkingPass).port = s.port := rfl
@[simp] theorem parkingPass_sense (s : State) : (s.parkingPass).sense = s.sense := rfl
@[simp] theorem parkingPass_refusal (s : State) : (s.parkingPass).refusal = s.refusal := rfl
@[simp] theorem parkingPass_events (s : State) : (s.parkingPass).events = s.events := rfl
@[simp] theorem parkingPass_mask (s : State) : (s.parkingPass).mask = s.mask := rfl
@[simp] theorem parkingPass_pending (s : State) : (s.parkingPass).pending = s.pending := rfl

@[simp] theorem place_powered (s : State) (rq : Placement) (targets : List (Nat × Nat)) : (s.place rq targets).powered = s.powered := rfl
@[simp] theorem place_clock (s : State) (rq : Placement) (targets : List (Nat × Nat)) : (s.place rq targets).clock = s.clock := rfl
@[simp] theorem place_timers (s : State) (rq : Placement) (targets : List (Nat × Nat)) : (s.place rq targets).timers = s.timers := rfl
@[simp] theorem place_config (s : State) (rq : Placement) (targets : List (Nat × Nat)) : (s.place rq targets).config = s.config := rfl
@[simp] theorem place_store (s : State) (rq : Placement) (targets : List (Nat × Nat)) : (s.place rq targets).store = s.store := rfl
@[simp] theorem place_stations (s : State) (rq : Placement) (targets : List (Nat × Nat)) : (s.place rq targets).stations = s.stations := rfl
@[simp] theorem place_loopA (s : State) (rq : Placement) (targets : List (Nat × Nat)) : (s.place rq targets).loopA = s.loopA := rfl
@[simp] theorem place_loopB (s : State) (rq : Placement) (targets : List (Nat × Nat)) : (s.place rq targets).loopB = s.loopB := rfl
@[simp] theorem place_queue (s : State) (rq : Placement) (targets : List (Nat × Nat)) : (s.place rq targets).queue = s.queue := rfl
@[simp] theorem place_current (s : State) (rq : Placement) (targets : List (Nat × Nat)) : (s.place rq targets).current = s.current := rfl
@[simp] theorem place_circuits (s : State) (rq : Placement) (targets : List (Nat × Nat)) : (s.place rq targets).circuits = s.circuits := rfl
@[simp] theorem place_mode (s : State) (rq : Placement) (targets : List (Nat × Nat)) : (s.place rq targets).mode = s.mode := rfl
@[simp] theorem place_lock (s : State) (rq : Placement) (targets : List (Nat × Nat)) : (s.place rq targets).lock = s.lock := rfl
@[simp] theorem place_panicLatch (s : State) (rq : Placement) (targets : List (Nat × Nat)) : (s.place rq targets).panicLatch = s.panicLatch := rfl
@[simp] theorem place_racks (s : State) (rq : Placement) (targets : List (Nat × Nat)) : (s.place rq targets).racks = s.racks := rfl
@[simp] theorem place_rackInFlight (s : State) (rq : Placement) (targets : List (Nat × Nat)) : (s.place rq targets).rackInFlight = s.rackInFlight := rfl
@[simp] theorem place_sweeper (s : State) (rq : Placement) (targets : List (Nat × Nat)) : (s.place rq targets).sweeper = s.sweeper := rfl
@[simp] theorem place_port (s : State) (rq : Placement) (targets : List (Nat × Nat)) : (s.place rq targets).port = s.port := rfl
@[simp] theorem place_sense (s : State) (rq : Placement) (targets : List (Nat × Nat)) : (s.place rq targets).sense = s.sense := rfl
@[simp] theorem place_refusal (s : State) (rq : Placement) (targets : List (Nat × Nat)) : (s.place rq targets).refusal = s.refusal := rfl
@[simp] theorem place_events (s : State) (rq : Placement) (targets : List (Nat × Nat)) : (s.place rq targets).events = s.events := rfl
@[simp] theorem place_mask (s : State) (rq : Placement) (targets : List (Nat × Nat)) : (s.place rq targets).mask = s.mask := rfl
@[simp] theorem place_pending (s : State) (rq : Placement) (targets : List (Nat × Nat)) : (s.place rq targets).pending = s.pending := rfl

@[simp] theorem startRamps_powered (s : State) (rq : Placement) (direction : RampDirection) (targets : List (Nat × Nat)) : (s.startRamps rq direction targets).powered = s.powered := rfl
@[simp] theorem startRamps_clock (s : State) (rq : Placement) (direction : RampDirection) (targets : List (Nat × Nat)) : (s.startRamps rq direction targets).clock = s.clock := rfl
@[simp] theorem startRamps_timers (s : State) (rq : Placement) (direction : RampDirection) (targets : List (Nat × Nat)) : (s.startRamps rq direction targets).timers = s.timers := rfl
@[simp] theorem startRamps_config (s : State) (rq : Placement) (direction : RampDirection) (targets : List (Nat × Nat)) : (s.startRamps rq direction targets).config = s.config := rfl
@[simp] theorem startRamps_store (s : State) (rq : Placement) (direction : RampDirection) (targets : List (Nat × Nat)) : (s.startRamps rq direction targets).store = s.store := rfl
@[simp] theorem startRamps_stations (s : State) (rq : Placement) (direction : RampDirection) (targets : List (Nat × Nat)) : (s.startRamps rq direction targets).stations = s.stations := rfl
@[simp] theorem startRamps_loopA (s : State) (rq : Placement) (direction : RampDirection) (targets : List (Nat × Nat)) : (s.startRamps rq direction targets).loopA = s.loopA := rfl
@[simp] theorem startRamps_loopB (s : State) (rq : Placement) (direction : RampDirection) (targets : List (Nat × Nat)) : (s.startRamps rq direction targets).loopB = s.loopB := rfl
@[simp] theorem startRamps_queue (s : State) (rq : Placement) (direction : RampDirection) (targets : List (Nat × Nat)) : (s.startRamps rq direction targets).queue = s.queue := rfl
@[simp] theorem startRamps_current (s : State) (rq : Placement) (direction : RampDirection) (targets : List (Nat × Nat)) : (s.startRamps rq direction targets).current = s.current := rfl
@[simp] theorem startRamps_circuits (s : State) (rq : Placement) (direction : RampDirection) (targets : List (Nat × Nat)) : (s.startRamps rq direction targets).circuits = s.circuits := rfl
@[simp] theorem startRamps_mode (s : State) (rq : Placement) (direction : RampDirection) (targets : List (Nat × Nat)) : (s.startRamps rq direction targets).mode = s.mode := rfl
@[simp] theorem startRamps_lock (s : State) (rq : Placement) (direction : RampDirection) (targets : List (Nat × Nat)) : (s.startRamps rq direction targets).lock = s.lock := rfl
@[simp] theorem startRamps_panicLatch (s : State) (rq : Placement) (direction : RampDirection) (targets : List (Nat × Nat)) : (s.startRamps rq direction targets).panicLatch = s.panicLatch := rfl
@[simp] theorem startRamps_racks (s : State) (rq : Placement) (direction : RampDirection) (targets : List (Nat × Nat)) : (s.startRamps rq direction targets).racks = s.racks := rfl
@[simp] theorem startRamps_rackInFlight (s : State) (rq : Placement) (direction : RampDirection) (targets : List (Nat × Nat)) : (s.startRamps rq direction targets).rackInFlight = s.rackInFlight := rfl
@[simp] theorem startRamps_sweeper (s : State) (rq : Placement) (direction : RampDirection) (targets : List (Nat × Nat)) : (s.startRamps rq direction targets).sweeper = s.sweeper := rfl
@[simp] theorem startRamps_port (s : State) (rq : Placement) (direction : RampDirection) (targets : List (Nat × Nat)) : (s.startRamps rq direction targets).port = s.port := rfl
@[simp] theorem startRamps_sense (s : State) (rq : Placement) (direction : RampDirection) (targets : List (Nat × Nat)) : (s.startRamps rq direction targets).sense = s.sense := rfl
@[simp] theorem startRamps_refusal (s : State) (rq : Placement) (direction : RampDirection) (targets : List (Nat × Nat)) : (s.startRamps rq direction targets).refusal = s.refusal := rfl
@[simp] theorem startRamps_events (s : State) (rq : Placement) (direction : RampDirection) (targets : List (Nat × Nat)) : (s.startRamps rq direction targets).events = s.events := rfl
@[simp] theorem startRamps_mask (s : State) (rq : Placement) (direction : RampDirection) (targets : List (Nat × Nat)) : (s.startRamps rq direction targets).mask = s.mask := rfl
@[simp] theorem startRamps_pending (s : State) (rq : Placement) (direction : RampDirection) (targets : List (Nat × Nat)) : (s.startRamps rq direction targets).pending = s.pending := rfl

@[simp] theorem stopRamps_powered (s : State) (o : Originator) (targets : List (Nat × Nat)) : (s.stopRamps o targets).powered = s.powered := rfl
@[simp] theorem stopRamps_clock (s : State) (o : Originator) (targets : List (Nat × Nat)) : (s.stopRamps o targets).clock = s.clock := rfl
@[simp] theorem stopRamps_timers (s : State) (o : Originator) (targets : List (Nat × Nat)) : (s.stopRamps o targets).timers = s.timers := rfl
@[simp] theorem stopRamps_config (s : State) (o : Originator) (targets : List (Nat × Nat)) : (s.stopRamps o targets).config = s.config := rfl
@[simp] theorem stopRamps_store (s : State) (o : Originator) (targets : List (Nat × Nat)) : (s.stopRamps o targets).store = s.store := rfl
@[simp] theorem stopRamps_stations (s : State) (o : Originator) (targets : List (Nat × Nat)) : (s.stopRamps o targets).stations = s.stations := rfl
@[simp] theorem stopRamps_loopA (s : State) (o : Originator) (targets : List (Nat × Nat)) : (s.stopRamps o targets).loopA = s.loopA := rfl
@[simp] theorem stopRamps_loopB (s : State) (o : Originator) (targets : List (Nat × Nat)) : (s.stopRamps o targets).loopB = s.loopB := rfl
@[simp] theorem stopRamps_queue (s : State) (o : Originator) (targets : List (Nat × Nat)) : (s.stopRamps o targets).queue = s.queue := rfl
@[simp] theorem stopRamps_current (s : State) (o : Originator) (targets : List (Nat × Nat)) : (s.stopRamps o targets).current = s.current := rfl
@[simp] theorem stopRamps_holds (s : State) (o : Originator) (targets : List (Nat × Nat)) : (s.stopRamps o targets).holds = s.holds.map (fun h => if h.isOn o targets then h.stopped else h) := rfl
@[simp] theorem stopRamps_circuits (s : State) (o : Originator) (targets : List (Nat × Nat)) : (s.stopRamps o targets).circuits = s.circuits := rfl
@[simp] theorem stopRamps_mode (s : State) (o : Originator) (targets : List (Nat × Nat)) : (s.stopRamps o targets).mode = s.mode := rfl
@[simp] theorem stopRamps_lock (s : State) (o : Originator) (targets : List (Nat × Nat)) : (s.stopRamps o targets).lock = s.lock := rfl
@[simp] theorem stopRamps_panicLatch (s : State) (o : Originator) (targets : List (Nat × Nat)) : (s.stopRamps o targets).panicLatch = s.panicLatch := rfl
@[simp] theorem stopRamps_racks (s : State) (o : Originator) (targets : List (Nat × Nat)) : (s.stopRamps o targets).racks = s.racks := rfl
@[simp] theorem stopRamps_rackInFlight (s : State) (o : Originator) (targets : List (Nat × Nat)) : (s.stopRamps o targets).rackInFlight = s.rackInFlight := rfl
@[simp] theorem stopRamps_sweeper (s : State) (o : Originator) (targets : List (Nat × Nat)) : (s.stopRamps o targets).sweeper = s.sweeper := rfl
@[simp] theorem stopRamps_port (s : State) (o : Originator) (targets : List (Nat × Nat)) : (s.stopRamps o targets).port = s.port := rfl
@[simp] theorem stopRamps_sense (s : State) (o : Originator) (targets : List (Nat × Nat)) : (s.stopRamps o targets).sense = s.sense := rfl
@[simp] theorem stopRamps_refusal (s : State) (o : Originator) (targets : List (Nat × Nat)) : (s.stopRamps o targets).refusal = s.refusal := rfl
@[simp] theorem stopRamps_events (s : State) (o : Originator) (targets : List (Nat × Nat)) : (s.stopRamps o targets).events = s.events := rfl
@[simp] theorem stopRamps_mask (s : State) (o : Originator) (targets : List (Nat × Nat)) : (s.stopRamps o targets).mask = s.mask := rfl
@[simp] theorem stopRamps_pending (s : State) (o : Originator) (targets : List (Nat × Nat)) : (s.stopRamps o targets).pending = s.pending := rfl

@[simp] theorem toggleOff_powered (s : State) (rq : Placement) (targets : List (Nat × Nat)) : (s.toggleOff rq targets).powered = s.powered := rfl
@[simp] theorem toggleOff_clock (s : State) (rq : Placement) (targets : List (Nat × Nat)) : (s.toggleOff rq targets).clock = s.clock := rfl
@[simp] theorem toggleOff_timers (s : State) (rq : Placement) (targets : List (Nat × Nat)) : (s.toggleOff rq targets).timers = s.timers := rfl
@[simp] theorem toggleOff_config (s : State) (rq : Placement) (targets : List (Nat × Nat)) : (s.toggleOff rq targets).config = s.config := rfl
@[simp] theorem toggleOff_store (s : State) (rq : Placement) (targets : List (Nat × Nat)) : (s.toggleOff rq targets).store = s.store := rfl
@[simp] theorem toggleOff_stations (s : State) (rq : Placement) (targets : List (Nat × Nat)) : (s.toggleOff rq targets).stations = s.stations := rfl
@[simp] theorem toggleOff_loopA (s : State) (rq : Placement) (targets : List (Nat × Nat)) : (s.toggleOff rq targets).loopA = s.loopA := rfl
@[simp] theorem toggleOff_loopB (s : State) (rq : Placement) (targets : List (Nat × Nat)) : (s.toggleOff rq targets).loopB = s.loopB := rfl
@[simp] theorem toggleOff_queue (s : State) (rq : Placement) (targets : List (Nat × Nat)) : (s.toggleOff rq targets).queue = s.queue := rfl
@[simp] theorem toggleOff_current (s : State) (rq : Placement) (targets : List (Nat × Nat)) : (s.toggleOff rq targets).current = s.current := rfl
@[simp] theorem toggleOff_circuits (s : State) (rq : Placement) (targets : List (Nat × Nat)) : (s.toggleOff rq targets).circuits = s.circuits := rfl
@[simp] theorem toggleOff_mode (s : State) (rq : Placement) (targets : List (Nat × Nat)) : (s.toggleOff rq targets).mode = s.mode := rfl
@[simp] theorem toggleOff_lock (s : State) (rq : Placement) (targets : List (Nat × Nat)) : (s.toggleOff rq targets).lock = s.lock := rfl
@[simp] theorem toggleOff_panicLatch (s : State) (rq : Placement) (targets : List (Nat × Nat)) : (s.toggleOff rq targets).panicLatch = s.panicLatch := rfl
@[simp] theorem toggleOff_racks (s : State) (rq : Placement) (targets : List (Nat × Nat)) : (s.toggleOff rq targets).racks = s.racks := rfl
@[simp] theorem toggleOff_rackInFlight (s : State) (rq : Placement) (targets : List (Nat × Nat)) : (s.toggleOff rq targets).rackInFlight = s.rackInFlight := rfl
@[simp] theorem toggleOff_sweeper (s : State) (rq : Placement) (targets : List (Nat × Nat)) : (s.toggleOff rq targets).sweeper = s.sweeper := rfl
@[simp] theorem toggleOff_port (s : State) (rq : Placement) (targets : List (Nat × Nat)) : (s.toggleOff rq targets).port = s.port := rfl
@[simp] theorem toggleOff_sense (s : State) (rq : Placement) (targets : List (Nat × Nat)) : (s.toggleOff rq targets).sense = s.sense := rfl
@[simp] theorem toggleOff_refusal (s : State) (rq : Placement) (targets : List (Nat × Nat)) : (s.toggleOff rq targets).refusal = s.refusal := rfl
@[simp] theorem toggleOff_events (s : State) (rq : Placement) (targets : List (Nat × Nat)) : (s.toggleOff rq targets).events = s.events := rfl
@[simp] theorem toggleOff_mask (s : State) (rq : Placement) (targets : List (Nat × Nat)) : (s.toggleOff rq targets).mask = s.mask := rfl
@[simp] theorem toggleOff_pending (s : State) (rq : Placement) (targets : List (Nat × Nat)) : (s.toggleOff rq targets).pending = s.pending := rfl

@[simp] theorem changeMode_powered (s : State) (mode : Mode) (cause : ModeCause) : (s.changeMode mode cause).powered = s.powered := rfl
@[simp] theorem changeMode_clock (s : State) (mode : Mode) (cause : ModeCause) : (s.changeMode mode cause).clock = s.clock := rfl
@[simp] theorem changeMode_timers (s : State) (mode : Mode) (cause : ModeCause) : (s.changeMode mode cause).timers = s.timers := rfl
@[simp] theorem changeMode_config (s : State) (mode : Mode) (cause : ModeCause) : (s.changeMode mode cause).config = s.config := rfl
@[simp] theorem changeMode_store (s : State) (mode : Mode) (cause : ModeCause) : (s.changeMode mode cause).store = s.store := rfl
@[simp] theorem changeMode_stations (s : State) (mode : Mode) (cause : ModeCause) : (s.changeMode mode cause).stations = s.stations := rfl
@[simp] theorem changeMode_loopA (s : State) (mode : Mode) (cause : ModeCause) : (s.changeMode mode cause).loopA = s.loopA := rfl
@[simp] theorem changeMode_loopB (s : State) (mode : Mode) (cause : ModeCause) : (s.changeMode mode cause).loopB = s.loopB := rfl
@[simp] theorem changeMode_queue (s : State) (mode : Mode) (cause : ModeCause) : (s.changeMode mode cause).queue = s.queue := rfl
@[simp] theorem changeMode_current (s : State) (mode : Mode) (cause : ModeCause) : (s.changeMode mode cause).current = s.current := rfl
@[simp] theorem changeMode_holds (s : State) (mode : Mode) (cause : ModeCause) : (s.changeMode mode cause).holds = s.holds.map (fun h => { h with parked := { s with mode := mode }.parks h.zone }) := rfl
@[simp] theorem changeMode_circuits (s : State) (mode : Mode) (cause : ModeCause) : (s.changeMode mode cause).circuits = s.circuits := rfl
@[simp] theorem changeMode_mode (s : State) (mode : Mode) (cause : ModeCause) : (s.changeMode mode cause).mode = mode := rfl
@[simp] theorem changeMode_lock (s : State) (mode : Mode) (cause : ModeCause) : (s.changeMode mode cause).lock = s.lock := rfl
@[simp] theorem changeMode_panicLatch (s : State) (mode : Mode) (cause : ModeCause) : (s.changeMode mode cause).panicLatch = s.panicLatch := rfl
@[simp] theorem changeMode_racks (s : State) (mode : Mode) (cause : ModeCause) : (s.changeMode mode cause).racks = s.racks := rfl
@[simp] theorem changeMode_rackInFlight (s : State) (mode : Mode) (cause : ModeCause) : (s.changeMode mode cause).rackInFlight = s.rackInFlight := rfl
@[simp] theorem changeMode_sweeper (s : State) (mode : Mode) (cause : ModeCause) : (s.changeMode mode cause).sweeper = s.sweeper := rfl
@[simp] theorem changeMode_port (s : State) (mode : Mode) (cause : ModeCause) : (s.changeMode mode cause).port = s.port := rfl
@[simp] theorem changeMode_sense (s : State) (mode : Mode) (cause : ModeCause) : (s.changeMode mode cause).sense = s.sense := rfl
@[simp] theorem changeMode_refusal (s : State) (mode : Mode) (cause : ModeCause) : (s.changeMode mode cause).refusal = s.refusal := rfl
@[simp] theorem changeMode_events (s : State) (mode : Mode) (cause : ModeCause) : (s.changeMode mode cause).events = (s.latchMode mode cause).events := rfl
@[simp] theorem changeMode_mask (s : State) (mode : Mode) (cause : ModeCause) : (s.changeMode mode cause).mask = s.mask := rfl
@[simp] theorem changeMode_pending (s : State) (mode : Mode) (cause : ModeCause) : (s.changeMode mode cause).pending = s.pending := rfl

@[simp] theorem retire_powered (s : State) (c : Nat) : (s.retire c).powered = s.powered := rfl
@[simp] theorem retire_clock (s : State) (c : Nat) : (s.retire c).clock = s.clock := rfl
@[simp] theorem retire_timers (s : State) (c : Nat) : (s.retire c).timers = s.timers := rfl
@[simp] theorem retire_config (s : State) (c : Nat) : (s.retire c).config = (s.setAttrs c { s.attrs c with retired := true }).config := rfl
@[simp] theorem retire_store (s : State) (c : Nat) : (s.retire c).store = s.store := rfl
@[simp] theorem retire_stations (s : State) (c : Nat) : (s.retire c).stations = s.stations := rfl
@[simp] theorem retire_loopA (s : State) (c : Nat) : (s.retire c).loopA = s.loopA := rfl
@[simp] theorem retire_loopB (s : State) (c : Nat) : (s.retire c).loopB = s.loopB := rfl
@[simp] theorem retire_queue (s : State) (c : Nat) : (s.retire c).queue = s.queue := rfl
@[simp] theorem retire_current (s : State) (c : Nat) : (s.retire c).current = s.current := rfl
@[simp] theorem retire_holds (s : State) (c : Nat) : (s.retire c).holds = s.holds.filter (fun h => h.circuit != c) := rfl
@[simp] theorem retire_circuits (s : State) (c : Nat) : (s.retire c).circuits = s.circuits := rfl
@[simp] theorem retire_mode (s : State) (c : Nat) : (s.retire c).mode = s.mode := rfl
@[simp] theorem retire_lock (s : State) (c : Nat) : (s.retire c).lock = s.lock := rfl
@[simp] theorem retire_panicLatch (s : State) (c : Nat) : (s.retire c).panicLatch = s.panicLatch := rfl
@[simp] theorem retire_racks (s : State) (c : Nat) : (s.retire c).racks = s.racks := rfl
@[simp] theorem retire_rackInFlight (s : State) (c : Nat) : (s.retire c).rackInFlight = s.rackInFlight := rfl
@[simp] theorem retire_sweeper (s : State) (c : Nat) : (s.retire c).sweeper = s.sweeper := rfl
@[simp] theorem retire_port (s : State) (c : Nat) : (s.retire c).port = s.port := rfl
@[simp] theorem retire_sense (s : State) (c : Nat) : (s.retire c).sense = s.sense := rfl
@[simp] theorem retire_refusal (s : State) (c : Nat) : (s.retire c).refusal = s.refusal := rfl
@[simp] theorem retire_events (s : State) (c : Nat) : (s.retire c).events = (s.latchCircuit c).events := rfl
@[simp] theorem retire_mask (s : State) (c : Nat) : (s.retire c).mask = s.mask := rfl
@[simp] theorem retire_pending (s : State) (c : Nat) : (s.retire c).pending = s.pending := rfl

@[simp] theorem startedFrom_pending (s : State) (store : Store) (panicInput : Bool) : (s.startedFrom store panicInput).pending = s.pending := rfl

end Sys2Proof.Machine.State
end

