-- ==== Sys2Proof/Laws/Table.lean ====
section
/-! SUPPORT. The laws of `Table`: what is read after a write, and after each way of building a table. -/
namespace Sys2Proof.Table

variable {α β : Type} {n : Nat}

theorem get_eq_getD (t : Table α n) (d : α) (i : Nat) : t.get d i = t.cells[i]?.getD d := by
  simp [get]

/-- A record beyond the table reads as the default. -/
theorem get_beyond (t : Table α n) (d : α) {i : Nat} (h : n ≤ i) : t.get d i = d := by
  have : t.cells[i]? = none := List.getElem?_eq_none (by rw [t.size_eq]; exact h)
  simp [get_eq_getD, this]

/-- A read after a write: the value written at its own record, what stood before at every other one. -/
theorem get_set (t : Table α n) (d v : α) (i j : Nat) :
    (t.set i v).get d j = if i = j ∧ j < n then v else t.get d j := by
  have hs := t.size_eq
  by_cases hij : i = j
  · subst hij
    by_cases h : i < n
    · simp [get_eq_getD, set, hs, h]
    · simp [get_eq_getD, set, hs, h]
  · simp [get_eq_getD, set, hij]

theorem get_set_same (t : Table α n) (d v : α) {i : Nat} (h : i < n) : (t.set i v).get d i = v := by
  simp [get_set, h]

theorem get_set_ne (t : Table α n) (d v : α) {i j : Nat} (h : i ≠ j) : (t.set i v).get d j = t.get d j := by
  simp [get_set, h]

@[simp] theorem get_fill (d v : α) (i : Nat) : (fill n v).get d i = if i < n then v else d := by
  by_cases h : i < n <;> simp [get_eq_getD, fill, h]

theorem get_map (f : α → β) (t : Table α n) (d : β) (e : α) (i : Nat) :
    (t.map f).get d i = if i < n then f (t.get e i) else d := by
  by_cases h : i < n
  · have : i < t.cells.length := by rw [t.size_eq]; exact h
    simp [get_eq_getD, map, h, List.getElem?_eq_getElem this]
  · rw [get_beyond _ _ (Nat.le_of_not_lt h), if_neg h]

theorem getElem?_mapFrom (f : Nat → α → β) (k : Nat) (l : List α) (i : Nat) :
    (mapFrom f k l)[i]? = l[i]?.map (f (k + i)) := by
  induction l generalizing k i with
  | nil => rfl
  | cons x xs ih =>
    cases i with
    | zero => rfl
    | succ i => simp [mapFrom, ih, Nat.add_assoc, Nat.add_comm 1 i]

theorem get_mapNumbered (f : Nat → α → β) (t : Table α n) (d : β) (e : α) (i : Nat) :
    (t.mapNumbered f).get d i = if i < n then f i (t.get e i) else d := by
  by_cases h : i < n
  · have : i < t.cells.length := by rw [t.size_eq]; exact h
    simp [get_eq_getD, mapNumbered, getElem?_mapFrom, h, List.getElem?_eq_getElem this]
  · rw [get_beyond _ _ (Nat.le_of_not_lt h), if_neg h]

@[simp] theorem get_tabulate (f : Nat → α) (d : α) (i : Nat) :
    (tabulate n f).get d i = if i < n then f i else d := by
  by_cases h : i < n
  · simp [get_eq_getD, tabulate, h]
  · rw [get_beyond _ _ (Nat.le_of_not_lt h), if_neg h]

end Sys2Proof.Table
end

