-- ==== Sys2Proof/Laws/Ops.lean ====
section
/-! SUPPORT. What the shared operations do, said once: records of the tables after a write, the shape of a host command, the
recomputation of images, and one step. Later proofs cite these and unfold none of them. -/
namespace Sys2Proof.Machine

/-! ## Records after a write -/

namespace State

variable (s : State)

theorem live_beyond {n : Nat} (h : 128 ≤ n) : s.live n = StationLive.fresh false := Table.get_beyond _ _ h
theorem slot_beyond {n : Nat} (h : 128 ≤ n) : s.slot n = StationConfig.default := Table.get_beyond _ _ h
theorem circuit_beyond {c : Nat} (h : 384 ≤ c) : s.circuit c = CircuitLive.clear := Table.get_beyond _ _ h
theorem attrs_beyond {c : Nat} (h : 384 ≤ c) : s.attrs c = CircuitAttrs.default := Table.get_beyond _ _ h
theorem binding_beyond {i : Nat} (h : 1024 ≤ i) : s.binding i = Binding.empty := Table.get_beyond _ _ h
theorem group_beyond {g : Nat} (h : 64 ≤ g) : s.group g = [] := Table.get_beyond _ _ h
theorem preset_beyond {p : Nat} (h : 48 ≤ p) : s.preset p = Preset.empty := Table.get_beyond _ _ h
theorem rack_beyond {r : Nat} (h : 4 ≤ r) : s.rack r = Rack.fresh := Table.get_beyond _ _ h

theorem live_setLive (n m : Nat) (v : StationLive) :
    (s.setLive n v).live m = if n = m ∧ m < 128 then v else s.live m := Table.get_set _ _ _ _ _

theorem circuit_setCircuit (c d : Nat) (v : CircuitLive) :
    (s.setCircuit c v).circuit d = if c = d ∧ d < 384 then v else s.circuit d := Table.get_set _ _ _ _ _

theorem rack_setRack (r q : Nat) (v : Rack) : (s.setRack r v).rack q = if r = q ∧ q < 4 then v else s.rack q :=
  Table.get_set _ _ _ _ _

theorem slot_setSlot (n m : Nat) (v : StationConfig) :
    (s.setSlot n v).slot m = if n = m ∧ m < 128 then v else s.slot m := Table.get_set _ _ _ _ _

theorem binding_setBinding (i j : Nat) (b : Binding) :
    (s.setBinding i b).binding j = if i = j ∧ j < 1024 then b else s.binding j := Table.get_set _ _ _ _ _

theorem group_setGroup (g k : Nat) (l : List Nat) :
    (s.setGroup g l).group k = if g = k ∧ k < 64 then l else s.group k := Table.get_set _ _ _ _ _

theorem preset_setPreset (p q : Nat) (v : Preset) :
    (s.setPreset p v).preset q = if p = q ∧ q < 48 then v else s.preset q := Table.get_set _ _ _ _ _

theorem attrs_setAttrs (c d : Nat) (a : CircuitAttrs) :
    (s.setAttrs c a).attrs d = if c = d ∧ d < 384 then a else s.attrs d := Table.get_set _ _ _ _ _

theorem loopState_setLoop (loop other : Loop) (v : LoopState) :
    (s.setLoop loop v).loopState other = if loop = other then v else s.loopState other := by
  cases loop <;> cases other <;> simp [setLoop, loopState]

/-- Setting a loop's controller changes nothing but that controller. -/
theorem setLoop_frame (loop : Loop) (v : LoopState) :
    s.setLoop loop v = { s with loopA := (s.setLoop loop v).loopA, loopB := (s.setLoop loop v).loopB } := by
  cases loop <;> rfl

/-! ## Images (R35) -/

theorem recomputeOne_pending (before after : State) (n : Nat) (v : StationLive) :
    recomputeOne before after n v = { v with imagePending := (recomputeOne before after n v).imagePending } := by
  unfold recomputeOne StationLive.recomputed
  split
  · split
    · rfl
    · split <;> rfl
  · rfl

/-- What a recomputation leaves of each station. -/
theorem live_recomputeImages (before after : State) (n : Nat) :
    (recomputeImages before after).live n = recomputeOne before after n (after.live n) := by
  by_cases h : n < 128
  · unfold live recomputeImages
    rw [Table.get_mapNumbered _ _ _ (StationLive.fresh false), if_pos h]
  · have hn : 128 ≤ n := Nat.le_of_not_lt h
    rw [live_beyond _ hn, live_beyond _ hn]
    simp [recomputeOne, slot_beyond _ hn, StationConfig.default]

/-- A recomputation changes image pending alone. -/
theorem recomputeImages_sameButPending (before after : State) : after.SameButPending (recomputeImages before after) := by
  intro n
  rw [live_recomputeImages]
  exact recomputeOne_pending before after n (after.live n)

/-- A recomputation with the same inputs changes nothing. -/
theorem recomputeOne_same {before after : State} {n : Nat} (h : after.imageInputs n = before.imageInputs n)
    (v : StationLive) : recomputeOne before after n v = v := by
  simp [recomputeOne, h]

/-- A recomputation after an action that changed no image's inputs changes nothing. -/
theorem recomputeImages_same {before after : State} (h : ∀ n, after.imageInputs n = before.imageInputs n) :
    recomputeImages before after = after := by
  have each : ∀ (l : List StationLive) k, Table.mapFrom (recomputeOne before after) k l = l := by
    intro l
    induction l with
    | nil => intro k; rfl
    | cons x xs ih => intro k; simp only [Table.mapFrom, ih]; rw [recomputeOne_same (h k)]
  have all : after.stations.mapNumbered (recomputeOne before after) = after.stations := by
    unfold Table.mapNumbered
    cases hs : after.stations with
    | mk cells size => simp only; congr 1; exact each cells 0
  unfold recomputeImages
  rw [all]

/-- A station whose live half agrees with what it was before, and a recomputation after. -/
theorem sameButPending_of_live {s after : State} (before : State) (h : ∀ n, after.live n = s.live n) :
    s.SameButPending (recomputeImages before after) := by
  intro n
  have := recomputeImages_sameButPending before after n
  rw [h n] at this
  exact this

end State

/-! ## Host commands -/

theorem whenPowered_eq (s t : State) : whenPowered s t = .next (if s.powered then t else s) := by
  unfold whenPowered; split <;> rfl

theorem whenPowered_on {s : State} (h : s.powered = true) (t : State) : whenPowered s t = .next t := by
  simp [whenPowered, h]

theorem whenPowered_off {s : State} (h : s.powered = false) (t : State) : whenPowered s t = .next s := by
  simp [whenPowered, h]

theorem hostCommand_on {s : State} (h : s.powered = true) (act : State → Reply) :
    hostCommand s act = .next (act (s.shiftFrame 96)).delivered := whenPowered_on h _

theorem hostCommand_off {s : State} (h : s.powered = false) (act : State → Reply) : hostCommand s act = .next s :=
  whenPowered_off h _

theorem Reply.delivered_ok (s : State) (fields : List (Nat × Nat)) :
    (Reply.ok s fields).delivered = s.answered .ok fields := rfl

theorem Reply.delivered_refuse (s : State) (command : Byte) (result : ResultCode) (ref : SenseRef)
    (fields : List (Nat × Nat)) :
    (Reply.refuse s command result ref fields).delivered = (s.writeSense command result ref).answered result fields := rfl

/-- Reading a state after a frame was shifted: only the port differs. -/
theorem State.shiftFrame_eq (s : State) (edges : Nat) : s.shiftFrame edges = { s with port := (s.shiftFrame edges).port } := rfl

/-! ## Steps -/

theorem step_front (c : Instr) (s : State) (rest : List Instr) :
    step { s with pending := c :: rest } = exec c { s with pending := rest } := rfl

theorem step_cons {s : State} {c : Instr} {rest : List Instr} (h : s.pending = c :: rest) :
    step s = exec c { s with pending := rest } := by
  unfold step; rw [h]

theorem step_idle {s : State} (h : s.pending = []) : step s = .next s.idle := by
  unfold step; rw [h]

/-- A property that idling keeps, that does not read the queue, and that every command keeps is kept by every step. -/
theorem step_keeps (P : State → Prop) (queueless : ∀ s q, P s → P { s with pending := q })
    (idles : ∀ s, P s → P s.idle) (runs : ∀ c s t, P s → exec c s = .next t → P t) :
    ∀ s t, P s → step s = .next t → P t := by
  intro s t hp h
  cases hq : s.pending with
  | nil =>
    rw [step_idle hq] at h
    cases h
    exact idles s hp
  | cons c rest =>
    rw [step_cons hq] at h
    exact runs c _ t (queueless s rest hp) h

end Sys2Proof.Machine
end

