-- ==== Sys2Proof/Laws/Holds.lean ====
section
/-! SUPPORT. What each request on the hold pool does, said once: touches, placements and ramp starts, releases, steps. -/
namespace Sys2Proof.Machine

/-! ## Contribution lists -/

theorem mem_contributions {pool : List Hold} {c : Nat} {h : Hold} :
    h ∈ contributions pool c ↔ h ∈ pool ∧ h.circuit = c := by
  simp [contributions]

theorem contributions_append (a b : List Hold) (c : Nat) :
    contributions (a ++ b) c = contributions a c ++ contributions b c := by
  simp [contributions]

theorem isOf_iff {c : Nat} {o : Originator} {h : Hold} : Hold.isOf c o h = true ↔ h.circuit = c ∧ h.originator = o := by
  simp [Hold.isOf]

/-! ## Free slots -/

theorem freeFrom_spec (pool : List Hold) :
    ∀ fuel k slot, freeFrom pool fuel k = some slot →
      k ≤ slot ∧ slot < k + fuel ∧ (∀ h ∈ pool, h.slot ≠ slot) ∧ ∀ j, k ≤ j → j < slot → ∃ h ∈ pool, h.slot = j := by
  intro fuel
  induction fuel with
  | zero => intro k slot h; simp [freeFrom] at h
  | succ fuel ih =>
    intro k slot h
    unfold freeFrom at h
    split at h
    · rename_i hall
      cases h
      refine ⟨Nat.le_refl _, by omega, ?_, fun j h1 h2 => absurd h2 (by omega)⟩
      intro h hh
      have := List.all_eq_true.mp hall h hh
      simpa using this
    · rename_i hall
      obtain ⟨h1, h2, h3, h4⟩ := ih (k + 1) slot h
      refine ⟨by omega, by omega, h3, ?_⟩
      intro j hj1 hj2
      by_cases hjk : j = k
      · subst hjk
        simpa using hall
      · exact h4 j (by omega) hj2

theorem freeFrom_none (pool : List Hold) :
    ∀ fuel k, freeFrom pool fuel k = none → ∀ j, k ≤ j → j < k + fuel → ∃ h ∈ pool, h.slot = j := by
  intro fuel
  induction fuel with
  | zero => intro k _ j h1 h2; omega
  | succ fuel ih =>
    intro k h j h1 h2
    unfold freeFrom at h
    split at h
    · cases h
    · rename_i hall
      by_cases hjk : j = k
      · subst hjk; simpa using hall
      · exact ih (k + 1) h j (by omega) (by omega)

/-- A pool with a free record has a lowest free slot (R68). -/
theorem lowestFree_isSome {pool : List Hold} (h : pool.length < 512) : ∃ slot, lowestFree pool = some slot := by
  cases hf : lowestFree pool with
  | some slot => exact ⟨slot, rfl⟩
  | none =>
    have hall := freeFrom_none pool 512 0 hf
    have hsub : Finset.range 512 ⊆ (pool.map Hold.slot).toFinset := by
      intro j hj
      obtain ⟨k, hk, hkj⟩ := hall j (Nat.zero_le _) (by simpa using hj)
      simp only [List.mem_toFinset, List.mem_map]
      exact ⟨k, hk, hkj⟩
    have h1 := Finset.card_le_card hsub
    have h2 := List.toFinset_card_le (pool.map Hold.slot)
    simp at h1 h2
    omega

/-- The slot a creation takes is in 0–511 and held by no other hold; every lower one is held (R68). -/
theorem lowestFree_spec {pool : List Hold} {slot : Nat} (h : lowestFree pool = some slot) :
    slot < 512 ∧ (∀ k ∈ pool, k.slot ≠ slot) ∧ ∀ j < slot, ∃ k ∈ pool, k.slot = j := by
  obtain ⟨_, h2, h3, h4⟩ := freeFrom_spec pool 512 0 slot h
  exact ⟨by omega, h3, fun j hj => h4 j (Nat.zero_le _) hj⟩

/-! ## Touches (R70, R72, R73, R80) -/

/-- The hold a touch begins from: the originator's own, or a blank one in the given slot. -/
def touchBase (rq : Placement) (rule : MergeRule) (pool : List Hold) (c slot : Nat) : Hold :=
  match pool.find? (Hold.isOf c rq.originator) with
  | some h => h
  | none => Hold.blank slot c rq (mergedOf rule (contributions pool c))

theorem touchOn_some {rq : Placement} {rule : MergeRule} {f : Hold → Hold} {pool : List Hold} {c : Nat} {h : Hold}
    (hf : pool.find? (Hold.isOf c rq.originator) = some h) :
    touchOn rq rule f pool c = pool.filter (fun x => !Hold.isOf c rq.originator x) ++ [f h] := by
  unfold touchOn; rw [hf]

theorem touchOn_none {rq : Placement} {rule : MergeRule} {f : Hold → Hold} {pool : List Hold} {c slot : Nat}
    (hf : pool.find? (Hold.isOf c rq.originator) = none) (hs : lowestFree pool = some slot) :
    touchOn rq rule f pool c =
      pool.filter (fun x => !Hold.isOf c rq.originator x) ++
        [f (Hold.blank slot c rq (mergedOf rule (contributions pool c)))] := by
  unfold touchOn
  rw [hf]
  simp only [hs]
  congr 1
  symm
  rw [List.filter_eq_self]
  intro a ha
  have := List.find?_eq_none.mp hf a ha
  simpa using this

/-- A touch in a pool that has the hold, or has a free record: the originator's hold leaves its place and stands, changed by
`f`, at the end of the pool. -/
theorem touchOn_spec {rq : Placement} {rule : MergeRule} {f : Hold → Hold} {pool : List Hold} {c : Nat}
    (room : pool.find? (Hold.isOf c rq.originator) = none → pool.length < 512) :
    ∃ slot, touchOn rq rule f pool c =
        pool.filter (fun x => !Hold.isOf c rq.originator x) ++ [f (touchBase rq rule pool c slot)] ∧
      (pool.find? (Hold.isOf c rq.originator) = none → lowestFree pool = some slot) := by
  cases hf : pool.find? (Hold.isOf c rq.originator) with
  | some h => exact ⟨0, by rw [touchOn_some hf, touchBase, hf], by simp⟩
  | none =>
    obtain ⟨slot, hs⟩ := lowestFree_isSome (room hf)
    exact ⟨slot, by rw [touchOn_none hf hs, touchBase, hf], fun _ => hs⟩

theorem touchBase_circuit (rq : Placement) (rule : MergeRule) (pool : List Hold) (c slot : Nat) :
    (touchBase rq rule pool c slot).circuit = c ∧ (touchBase rq rule pool c slot).originator = rq.originator := by
  unfold touchBase
  split
  · rename_i h hf
    exact isOf_iff.mp (List.find?_some hf)
  · exact ⟨rfl, rfl⟩

/-- The list of the circuit touched. -/
theorem contributions_touchOn_same {rq : Placement} {rule : MergeRule} {f : Hold → Hold} {pool : List Hold} {c slot : Nat}
    (hf : (f (touchBase rq rule pool c slot)).circuit = c) :
    contributions (pool.filter (fun x => !Hold.isOf c rq.originator x) ++ [f (touchBase rq rule pool c slot)]) c =
      (contributions pool c).filter (fun k => k.originator != rq.originator) ++ [f (touchBase rq rule pool c slot)] := by
  rw [contributions_append]
  congr 1
  · simp only [contributions, List.filter_filter]
    apply List.filter_congr
    intro x _
    simp only [Hold.isOf, bne]
    cases x.circuit == c <;> cases x.originator == rq.originator <;> rfl
  · simp [contributions, hf]

/-- The list of any other circuit. -/
theorem contributions_touchOn_other {o : Originator} {pool : List Hold} {c d : Nat} {h : Hold} (hh : h.circuit = c)
    (hd : d ≠ c) :
    contributions (pool.filter (fun x => !Hold.isOf c o x) ++ [h]) d = contributions pool d := by
  rw [contributions_append]
  have h1 : contributions [h] d = [] := by
    simp only [contributions, List.filter_eq_nil_iff, List.mem_singleton, forall_eq, hh]
    simpa using fun he => hd he.symm
  rw [h1, List.append_nil]
  simp only [contributions, List.filter_filter]
  apply List.filter_congr
  intro x _
  by_cases hx : x.circuit = d
  · have : x.circuit ≠ c := fun he => hd (hx.symm.trans he)
    simp [Hold.isOf, hx, hd]
  · simp [hx]

/-! ## Requests over several circuits (R71) -/

/-- One request's touches, circuit by circuit. -/
def touchAll (rq : Placement) (rule : Nat → MergeRule) (f : Nat × Nat → Hold → Hold) (pool : List Hold)
    (targets : List (Nat × Nat)) : List Hold :=
  targets.foldl (fun pool x => touchOn rq (rule x.1) (f x) pool x.1) pool

theorem find?_isOf_contributions (pool : List Hold) (c : Nat) (o : Originator) :
    pool.find? (Hold.isOf c o) = (contributions pool c).find? (fun h => h.originator == o) := by
  induction pool with
  | nil => rfl
  | cons h l ih =>
    by_cases hc : h.circuit = c
    · by_cases ho : h.originator = o
      · simp [contributions, Hold.isOf, hc, ho]
      · simp only [List.find?_cons, Hold.isOf, hc, beq_self_eq_true, Bool.true_and, contributions, List.filter_cons, if_true]
        have : (h.originator == o) = false := by simpa using ho
        rw [this]
        simpa [contributions] using ih
    · have : (h.circuit == c) = false := by simpa using hc
      simp only [List.find?_cons, Hold.isOf, this, Bool.false_and, contributions, List.filter_cons]
      simpa [contributions] using ih

theorem length_filter_isOf_le (pool : List Hold) (c : Nat) (o : Originator) :
    (pool.filter (fun x => !Hold.isOf c o x)).length ≤ pool.length := List.length_filter_le _ _

theorem length_touchOn_le {o : Originator} {pool : List Hold} {c : Nat} {h : Hold} :
    (pool.filter (fun x => !Hold.isOf c o x) ++ [h]).length ≤
      pool.length + (if pool.find? (Hold.isOf c o) = none then 1 else 0) := by
  rw [List.length_append]
  simp only [List.length_singleton]
  split
  · have := length_filter_isOf_le pool c o; omega
  · rename_i hf
    obtain ⟨k, hk⟩ := Option.ne_none_iff_exists'.mp hf
    have hk1 := List.find?_some hk
    have hk2 := List.mem_of_find?_eq_some hk
    have : (pool.filter (fun x => !Hold.isOf c o x)).length < pool.length := by
      apply List.length_filter_lt_length_iff_exists.mpr
      exact ⟨k, hk2, by simp [hk1]⟩
    omega

theorem any_isOf_iff_find? {pool : List Hold} {c : Nat} {o : Originator} :
    pool.any (Hold.isOf c o) = (pool.find? (Hold.isOf c o)).isSome := by
  rw [Bool.eq_iff_iff]
  simp [List.find?_isSome]

/-! ## Slots (R68) -/

theorem freeFrom_eq_head? (pool : List Hold) (fuel k : Nat) :
    freeFrom pool fuel k = ((List.range' k fuel).filter (fun j => pool.all (fun h => h.slot != j))).head? := by
  induction fuel generalizing k with
  | zero => rfl
  | succ n ih =>
    rw [freeFrom, List.range'_succ, List.filter_cons]
    split
    · rfl
    · exact ih (k + 1)

/-- The lowest free slot is the first of the free slots. -/
theorem lowestFree_eq_head? (pool : List Hold) : lowestFree pool = (freeSlots pool).head? := by
  rw [lowestFree, freeFrom_eq_head?, freeSlots, List.range_eq_range']

/-- Pools that use the same slots have the same free ones. -/
theorem freeSlots_congr {p q : List Hold} (h : ∀ k, k ∈ p.map Hold.slot ↔ k ∈ q.map Hold.slot) : freeSlots p = freeSlots q := by
  unfold freeSlots
  apply List.filter_congr
  intro k _
  have all_iff : ∀ l : List Hold, (l.all (fun h => h.slot != k) = true ↔ k ∉ l.map Hold.slot) := by
    intro l
    simp only [List.all_eq_true, bne_iff_ne, ne_eq, List.mem_map, not_exists, not_and]
  rw [Bool.eq_iff_iff, all_iff, all_iff, h k]

/-- A hold in the lowest free slot takes the first of the free slots. -/
theorem freeSlots_created {pool : List Hold} {h : Hold} (hs : lowestFree pool = some h.slot) :
    freeSlots (pool ++ [h]) = (freeSlots pool).tail := by
  rw [lowestFree_eq_head?] at hs
  have hsplit : freeSlots (pool ++ [h]) = (freeSlots pool).filter (fun k => h.slot != k) := by
    unfold freeSlots
    rw [List.filter_filter]
    apply List.filter_congr
    intro k _
    rw [List.all_append, Bool.and_comm]
    simp
  rw [hsplit]
  have hnd : (freeSlots pool).Nodup := List.nodup_range.filter _
  revert hs hnd
  generalize freeSlots pool = l
  intro hs hnd
  cases l with
  | nil => rfl
  | cons a l =>
    simp only [List.head?_cons, Option.some.injEq] at hs
    subst hs
    rw [List.nodup_cons] at hnd
    rw [List.filter_cons, if_neg (by simp), List.tail_cons, List.filter_eq_self]
    intro k hk
    simp only [bne_iff_ne, ne_eq]
    rintro rfl
    exact hnd.1 hk

/-- No two holds share both circuit and originator. -/
def Unique (pool : List Hold) : Prop := (pool.map (fun h => (h.circuit, h.originator))).Nodup

/-- A touch keeps the holds unique. -/
theorem unique_touch {o : Originator} {pool : List Hold} {c : Nat} {h : Hold} (hc : h.circuit = c) (ho : h.originator = o)
    (hu : Unique pool) : Unique (pool.filter (fun x => !Hold.isOf c o x) ++ [h]) := by
  unfold Unique at *
  rw [List.map_append, List.map_singleton, List.nodup_append]
  refine ⟨hu.sublist (List.Sublist.map _ List.filter_sublist), List.nodup_singleton _, ?_⟩
  intro a ha b hb
  rw [List.mem_singleton] at hb
  subst hb
  obtain ⟨x, hx, rfl⟩ := List.mem_map.mp ha
  rw [List.mem_filter] at hx
  intro he
  rw [Prod.mk.injEq] at he
  have : Hold.isOf c o x = true := isOf_iff.mpr ⟨he.1.trans hc, he.2.trans ho⟩
  simp [this] at hx

/-- Among unique holds, the one found is the only one of its circuit and originator. -/
theorem unique_found {o : Originator} {pool : List Hold} {c : Nat} {k x : Hold} (hu : Unique pool)
    (hk : pool.find? (Hold.isOf c o) = some k) (hx : x ∈ pool) (hxo : Hold.isOf c o x = true) : x = k := by
  have h1 := isOf_iff.mp (List.find?_some hk)
  have h2 := isOf_iff.mp hxo
  exact List.inj_on_of_nodup_map hu hx (List.mem_of_find?_eq_some hk)
    (by rw [h1.1, h1.2, h2.1, h2.2])

/-- The free slots after a touch among unique holds: as before where the hold was there, without the first where it was created. -/
theorem freeSlots_touch {rq : Placement} {rule : MergeRule} {f : Hold → Hold} {pool : List Hold} {c slot : Nat}
    (keeps : ∀ h, (f h).slot = h.slot) (hu : Unique pool)
    (hs : pool.find? (Hold.isOf c rq.originator) = none → lowestFree pool = some slot) :
    freeSlots (pool.filter (fun x => !Hold.isOf c rq.originator x) ++ [f (touchBase rq rule pool c slot)]) =
      (freeSlots pool).drop (if pool.find? (Hold.isOf c rq.originator) = none then 1 else 0) := by
  cases hf : pool.find? (Hold.isOf c rq.originator) with
  | some k =>
    rw [if_neg (by simp), List.drop_zero]
    apply freeSlots_congr
    intro j
    have hb : touchBase rq rule pool c slot = k := by rw [touchBase, hf]
    rw [hb, List.map_append, List.mem_append, List.map_singleton, List.mem_singleton, keeps, List.mem_map, List.mem_map]
    constructor
    · rintro (⟨x, hx, rfl⟩ | rfl)
      · exact ⟨x, (List.mem_filter.mp hx).1, rfl⟩
      · exact ⟨k, List.mem_of_find?_eq_some hf, rfl⟩
    · rintro ⟨x, hx, rfl⟩
      by_cases hxo : Hold.isOf c rq.originator x = true
      · exact Or.inr (by rw [unique_found hu hf hx hxo])
      · exact Or.inl ⟨x, List.mem_filter.mpr ⟨hx, by simpa using hxo⟩, rfl⟩
  | none =>
    have hself : pool.filter (fun x => !Hold.isOf c rq.originator x) = pool := by
      rw [List.filter_eq_self]
      intro a ha
      simpa using List.find?_eq_none.mp hf a ha
    have hb : (f (touchBase rq rule pool c slot)).slot = slot := by rw [keeps, touchBase, hf]; rfl
    rw [hself, if_pos rfl, List.drop_one]
    exact freeSlots_created (by rw [hb]; exact hs hf)

/-- What a request over distinct circuits leaves, with room for the holds it creates: on each target circuit the originator's
hold, changed, at the end of the list, a created one in the free slot of its turn; on every other circuit the list as it was. -/
theorem touchAll_spec (rq : Placement) (rule : Nat → MergeRule) (f : Nat × Nat → Hold → Hold)
    (keeps : ∀ x h, (f x h).circuit = h.circuit ∧ (f x h).originator = h.originator ∧ (f x h).slot = h.slot) :
    ∀ (targets : List (Nat × Nat)) (pool : List Hold), (targets.map Prod.fst).Nodup →
      lacking pool rq.originator targets ≤ 512 - pool.length →
      (∀ before x after, targets = before ++ x :: after → ∃ slot,
        contributions (touchAll rq rule f pool targets) x.1 =
          (contributions pool x.1).filter (fun k => k.originator != rq.originator) ++
            [f x (touchBase rq (rule x.1) pool x.1 slot)] ∧
          (Unique pool → pool.find? (Hold.isOf x.1 rq.originator) = none →
            (freeSlots pool)[lacking pool rq.originator before]? = some slot)) ∧
        ∀ c, (∀ x ∈ targets, x.1 ≠ c) → contributions (touchAll rq rule f pool targets) c = contributions pool c := by
  intro targets
  induction targets with
  | nil => intro pool _ _; exact ⟨fun before x after h => by simp at h, fun c _ => rfl⟩
  | cons x xs ih =>
    intro pool hnd hroom
    simp only [List.map_cons, List.nodup_cons] at hnd
    have hcons : ∀ l, lacking pool rq.originator (x :: l) =
        (if pool.find? (Hold.isOf x.1 rq.originator) = none then 1 else 0) + lacking pool rq.originator l := by
      intro l
      simp only [lacking, List.filter_cons, any_isOf_iff_find?]
      cases hf : pool.find? (Hold.isOf x.1 rq.originator) with
      | none => simp [Nat.add_comm]
      | some k => simp
    have hlack := hcons xs
    have hfree : pool.find? (Hold.isOf x.1 rq.originator) = none → pool.length < 512 := by
      intro hf
      rw [hlack, if_pos hf] at hroom
      omega
    obtain ⟨slot, htouch, hslot⟩ := touchOn_spec (rule := rule x.1) (f := f x) hfree
    have hbase := touchBase_circuit rq (rule x.1) pool x.1 slot
    have hcirc : (f x (touchBase rq (rule x.1) pool x.1 slot)).circuit = x.1 := by rw [(keeps x _).1, hbase.1]
    have hother : ∀ d, d ≠ x.1 → contributions (touchOn rq (rule x.1) (f x) pool x.1) d = contributions pool d := by
      intro d hd
      rw [htouch]
      exact contributions_touchOn_other hcirc hd
    have hsub : ∀ l, (∀ y ∈ l, y ∈ xs) →
        lacking (touchOn rq (rule x.1) (f x) pool x.1) rq.originator l = lacking pool rq.originator l := by
      intro l hl
      unfold lacking
      congr 1
      apply List.filter_congr
      intro y hy
      have hy := hl y hy
      have hyx : y.1 ≠ x.1 := fun he => hnd.1 (he ▸ List.mem_map_of_mem hy)
      simp only [any_isOf_iff_find?, find?_isOf_contributions, hother y.1 hyx]
    have hlack2 := hsub xs (fun _ h => h)
    have hlen : (touchOn rq (rule x.1) (f x) pool x.1).length ≤
        pool.length + (if pool.find? (Hold.isOf x.1 rq.originator) = none then 1 else 0) := by
      rw [htouch]; exact length_touchOn_le
    have hroom2 : lacking (touchOn rq (rule x.1) (f x) pool x.1) rq.originator xs ≤
        512 - (touchOn rq (rule x.1) (f x) pool x.1).length := by
      rw [hlack2]
      rw [hlack] at hroom
      omega
    obtain ⟨ih1, ih2⟩ := ih (touchOn rq (rule x.1) (f x) pool x.1) hnd.2 hroom2
    have hfold : touchAll rq rule f pool (x :: xs) = touchAll rq rule f (touchOn rq (rule x.1) (f x) pool x.1) xs := rfl
    refine ⟨?_, ?_⟩
    · intro before y after hsplit
      cases before with
      | nil =>
        rw [List.nil_append, List.cons.injEq] at hsplit
        obtain ⟨rfl, rfl⟩ := hsplit
        refine ⟨slot, ?_, fun _ hf => ?_⟩
        · rw [hfold, ih2 x.1 (fun z hz he => hnd.1 (he ▸ List.mem_map_of_mem hz)), htouch]
          exact contributions_touchOn_same hcirc
        · have h0 : lacking pool rq.originator [] = 0 := rfl
          rw [h0, ← List.head?_eq_getElem?, ← lowestFree_eq_head?]
          exact hslot hf
      | cons b before =>
        rw [List.cons_append, List.cons.injEq] at hsplit
        obtain ⟨rfl, rfl⟩ := hsplit
        have hy : y ∈ before ++ y :: after := by simp
        have hyx : y.1 ≠ x.1 := fun he => hnd.1 (he ▸ List.mem_map_of_mem hy)
        have hfind : (touchOn rq (rule x.1) (f x) pool x.1).find? (Hold.isOf y.1 rq.originator) =
            pool.find? (Hold.isOf y.1 rq.originator) := by
          simp only [find?_isOf_contributions, hother y.1 hyx]
        obtain ⟨slot', h1, h2⟩ := ih1 before y after rfl
        refine ⟨slot', ?_, fun hu hf => ?_⟩
        · rw [hfold, h1, hother y.1 hyx]
          congr 3
          unfold touchBase
          simp only [hfind, hother y.1 hyx]
        · have h3 := h2 (by rw [htouch]; exact unique_touch hcirc ((keeps x _).2.1.trans hbase.2) hu) (hfind.trans hf)
          rw [hsub before (fun z hz => by simp [hz]), htouch, freeSlots_touch (fun h => (keeps x h).2.2) hu hslot,
            List.getElem?_drop] at h3
          rw [hcons before]
          exact h3
    · intro c hc
      rw [hfold, ih2 c (fun z hz => hc z (List.mem_cons_of_mem _ hz))]
      exact hother c (fun he => hc x List.mem_cons_self he.symm)

theorem place_eq (s : State) (rq : Placement) (targets : List (Nat × Nat)) :
    (s.place rq targets).holds = touchAll rq (fun c => (s.attrs c).mergeRule) (fun x h => h.placed rq x.2) s.holds targets :=
  rfl

theorem startRamps_eq (s : State) (rq : Placement) (direction : RampDirection) (targets : List (Nat × Nat)) :
    (s.startRamps rq direction targets).holds =
      touchAll rq (fun c => (s.attrs c).mergeRule) (fun _ h => h.ramped rq direction) s.holds targets := rfl

/-- The hold a placement leaves. -/
theorem placed_spec (s : State) (rq : Placement) (c target slot : Nat) :
    ((touchBase rq (s.attrs c).mergeRule s.holds c slot).placed rq target).PlacedBy rq c target (s.startLevel rq.originator c) := by
  have hb := touchBase_circuit rq (s.attrs c).mergeRule s.holds c slot
  have hl : (touchBase rq (s.attrs c).mergeRule s.holds c slot).level = s.startLevel rq.originator c := by
    unfold touchBase State.startLevel State.mergedLevel
    cases s.holds.find? (Hold.isOf c rq.originator) <;> rfl
  simp [Hold.PlacedBy, Hold.placed, hb, hl]

/-- The slot of the hold that a touch leaves. -/
theorem slotGiven_of {s : State} {rq : Placement} {rule : MergeRule} {c created slot : Nat} {h : Hold}
    (hh : h.slot = (touchBase rq rule s.holds c slot).slot)
    (hs : Unique s.holds → s.holds.find? (Hold.isOf c rq.originator) = none → (freeSlots s.holds)[created]? = some slot) :
    s.SlotGiven rq.originator c created h := by
  unfold State.SlotGiven
  split
  · rename_i k hk
    rw [hh, touchBase, hk]
  · rename_i hn
    intro law
    rw [hs law.2.2 hn, hh, touchBase, hn]
    rfl

/-- What a placement does (R71 to R73). -/
theorem place_spec (s : State) (rq : Placement) (targets : List (Nat × Nat)) (distinct : (targets.map Prod.fst).Nodup)
    (room : lacking s.holds rq.originator targets ≤ freeRecords s.holds) : s.PlacedOn (s.place rq targets) rq targets := by
  obtain ⟨h1, h2⟩ := touchAll_spec rq (fun c => (s.attrs c).mergeRule) (fun x h => h.placed rq x.2)
    (fun x h => ⟨rfl, rfl, rfl⟩) targets s.holds distinct room
  refine ⟨?_, fun c hc => by rw [place_eq]; exact h2 c hc⟩
  intro before x after hx
  obtain ⟨slot, h3, h4⟩ := h1 before x after hx
  exact ⟨_, by rw [State.TouchedAt, place_eq]; exact h3, placed_spec s rq x.1 x.2 slot, slotGiven_of rfl h4⟩

/-- What a ramp start does (R71, R80). -/
theorem startRamps_spec (s : State) (rq : Placement) (direction : RampDirection) (targets : List (Nat × Nat))
    (distinct : (targets.map Prod.fst).Nodup) (room : lacking s.holds rq.originator targets ≤ freeRecords s.holds) :
    s.RampedOn (s.startRamps rq direction targets) rq direction targets := by
  obtain ⟨h1, h2⟩ := touchAll_spec rq (fun c => (s.attrs c).mergeRule) (fun _ h => h.ramped rq direction)
    (fun x h => ⟨rfl, rfl, rfl⟩) targets s.holds distinct room
  refine ⟨?_, fun c hc => by rw [startRamps_eq]; exact h2 c hc⟩
  intro before x after hx
  obtain ⟨slot, h3, h4⟩ := h1 before x after hx
  refine ⟨(touchBase rq (s.attrs x.1).mergeRule s.holds x.1 slot).ramped rq direction,
    by rw [State.TouchedAt, startRamps_eq]; exact h3, ?_, slotGiven_of rfl h4⟩
  have hb := touchBase_circuit rq (s.attrs x.1).mergeRule s.holds x.1 slot
  have hl : (touchBase rq (s.attrs x.1).mergeRule s.holds x.1 slot).level = s.startLevel rq.originator x.1 := by
    unfold touchBase State.startLevel State.mergedLevel
    cases s.holds.find? (Hold.isOf x.1 rq.originator) <;> rfl
  refine ⟨hb.1, hb.2, rfl, rfl, rfl, rfl, rfl, rfl, rfl, hl, by simp [Hold.ramped, hl], ?_⟩
  cases hf : s.holds.find? (Hold.isOf x.1 rq.originator) with
  | some k => simp [touchBase, hf, Hold.ramped]
  | none =>
    have : s.startLevel rq.originator x.1 = s.mergedLevel x.1 := by simp [State.startLevel, hf]
    simp only [touchBase, hf, Hold.ramped, Hold.blank, this]
    exact ⟨rfl, rfl, trivial⟩

end Sys2Proof.Machine
end

