-- ==== Sys2Proof/Laws/Steps.lean ====
section
/-! SUPPORT. What a step can do, said once: a property of states that each of the actions below keeps, under what the checks
before it have found, is kept by every command and by every step. An invariant is proved by one proof per action. -/
namespace Sys2Proof.Machine

/-- A property that every action of the SB-384 keeps. Where an action recomputes the images (R35), it is the whole of it that is
asked. -/
structure Keeps (P : State → Prop) : Prop where
  /-- The queue of commands, the clock and the port are not read. -/
  frame : ∀ s pending clock port, P s → P { s with pending := pending, clock := clock, port := port }
  startUp : ∀ s p, P s → P (s.startedFrom s.store.interrupted p)
  powerLoss : ∀ s, P s → P { s with powered := false, store := s.store.interrupted }
  writeSense : ∀ s command result ref, P s → P (s.writeSense command result ref)
  clearSense : ∀ s, P s → P { s with sense := .cleared }
  clearRefusal : ∀ s, P s → P { s with refusal := .cleared }
  clearEvents : ∀ s, P s → P { s with events := { s.events with flags := EventGroups.all false } }
  mask : ∀ s m, P s → P { s with mask := m }
  restart : ∀ s, P s → P s.restarted
  save : ∀ s, P s → P { s with store := .writing s.config s.clock }
  saved : ∀ s snapshot since, s.store = .writing snapshot since → P s →
    P ({ s with store := .valid snapshot }.latchStore .saved)
  slot : ∀ s n (c : StationConfig), stationUsable n = true → c.base ≤ 1023 → 1 ≤ c.count → c.count ≤ 16 → c.authority ≤ 3 →
    P s → P (s.recomputeImages ((s.setSlot n c).adjustEnrollment n (s.slot n).enrolled c.enrolled))
  loopRestart : ∀ s loop, P s → P (s.recomputeImages (s.restartLoop loop))
  discard : ∀ s, P s → P s.discardContinuation
  binding : ∀ s i b, s.sweeper.active = false → i ≤ 1023 → b = .empty ∨ b.present = true ∧ b.fits = true →
    P s → P (s.recomputeImages (s.setBinding i b).discardContinuation)
  attrs : ∀ s c (a : CircuitAttrs), s.sweeper.active = false → c ≤ 383 → a.floor ≤ 1000 → a.retired = (s.attrs c).retired →
    (a.egress = true → a.retired = false) → P s → P (s.recomputeImages (s.setAttrs c a).discardContinuation)
  retire : ∀ s c, s.sweeper.active = false → c ≤ 383 → (s.attrs c).egress = false → P s →
    P (s.recomputeImages (s.retire c).discardContinuation)
  restore : ∀ s c, s.sweeper.active = false → c ≤ 383 → P s →
    P (s.recomputeImages ((s.setAttrs c { s.attrs c with retired := false }).setCircuit c
      { s.circuit c with faultCount := 0, reported := false }).discardContinuation)
  groupAdd : ∀ s g c, s.sweeper.active = false → g ≤ 63 → c ≤ 383 → c ∉ s.group g → (s.group g).length < 32 → P s →
    P (s.recomputeImages (s.setGroup g (s.group g ++ [c])).discardContinuation)
  groupRemove : ∀ s g k, s.sweeper.active = false → g ≤ 63 → P s →
    P (s.recomputeImages (s.setGroup g ((s.group g).eraseIdx k)).discardContinuation)
  presetReplace : ∀ s p k c level, s.sweeper.active = false → p ≤ 47 → c ≤ 383 → level ≤ 1000 →
    positionOf (fun x => x.1 == c) (s.preset p).entries = some k → P s →
    P (s.recomputeImages (s.setPreset p { s.preset p with entries := (s.preset p).entries.set k (c, level) }).discardContinuation)
  presetAppend : ∀ s p c level, s.sweeper.active = false → p ≤ 47 → c ≤ 383 → level ≤ 1000 →
    positionOf (fun x => x.1 == c) (s.preset p).entries = none → (s.preset p).entries.length < 64 → P s →
    P (s.recomputeImages (s.setPreset p { s.preset p with entries := (s.preset p).entries ++ [(c, level)] }).discardContinuation)
  presetRemove : ∀ s p k, s.sweeper.active = false → p ≤ 47 → P s →
    P (s.recomputeImages (s.setPreset p { s.preset p with entries := (s.preset p).entries.eraseIdx k }).discardContinuation)
  presetAttr : ∀ s p fade zone, s.sweeper.active = false → p ≤ 47 → fade ≤ 600 → zone ≤ 15 → P s →
    P (s.recomputeImages (s.setPreset p { s.preset p with fade := fade, zone := zone }).discardContinuation)
  /-- A placement with room for what it creates, its levels within range where those of the configuration are, its kind
  MOMENTARY only for a station that is ONLINE. -/
  place : ∀ s (rq : Placement) target level, level ≤ 1000 ∨ (∃ i, level = (s.binding i).level) →
    rq.parked = s.parks rq.zone → lacking s.holds rq.originator (s.targets target level) ≤ freeRecords s.holds →
    (rq.kind = .momentary → ∃ n, rq.lastStation = some n ∧ (s.live n).presence = .online) → P s →
    P (s.recomputeImages (s.place rq (s.targets target level)))
  ramps : ∀ s (rq : Placement) direction target level, rq.parked = s.parks rq.zone →
    lacking s.holds rq.originator (s.targets target level) ≤ freeRecords s.holds → P s →
    P (s.recomputeImages (s.startRamps rq direction (s.targets target level)))
  toggleOff : ∀ s (rq : Placement) target level, level ≤ 1000 ∨ (∃ i, level = (s.binding i).level) →
    rq.parked = s.parks rq.zone → rq.kind = .latch → P s →
    P (s.recomputeImages (s.toggleOff rq (s.targets target level)))
  release : ∀ s p, P s → P (s.recomputeImages (s.release p))
  stopRamps : ∀ s o targets, P s → P (s.recomputeImages (s.stopRamps o targets))
  mode : ∀ s m cause, (m = .show → s.lock.isHeld = true) → (m ≠ .panic → s.mode ≠ .panic ∨ s.panicLatch = false) → P s →
    P (s.recomputeImages (s.changeMode m cause))
  /-- A recomputation with no action before it. -/
  recompute : ∀ s, P s → P (s.recomputeImages s)
  panicInput : ∀ s, P s → P (s.recomputeImages ({ s with panicLatch := true }.enterPanic .panicInput))
  panicInputOff : ∀ s, P s → P { s with panicLatch := false }
  zoneMinimum : ∀ s m z v, m ≠ Mode.panic → z ≤ 15 → P s →
    P (s.recomputeImages
      (let written := { s with config := { s.config with zoneMinimums := s.config.zoneMinimums.set (zoneIndex m z) v } }
       if m = s.mode then written.parkingPass else written))
  holdoverLevel : ∀ s l, l ≤ 1000 → P s → P (s.recomputeImages { s with config := { s.config with holdoverLevel := l } })
  lock : ∀ s (l : ShowLock), l.isHeld = true → P s → P { s with lock := l }
  lockFree : ∀ s, s.mode ≠ .show → P s → P { s with lock := .free }
  lapse : ∀ s cause, P s → P (s.recomputeImages (s.lapse cause))
  retarget : ∀ s old new, s.sweeper.active = false → old ≤ 383 → new ≤ 383 → old ≠ new → (s.attrs new).retired = false → P s →
    P (s.recomputeImages (s.issueFresh old new))
  reissue : ∀ s (job : SweepJob), s.sweeper.state = .aborted job → job.oldCircuit ≤ 383 → job.newCircuit ≤ 383 →
    job.oldCircuit ≠ job.newCircuit → P s → P (s.recomputeImages (s.reissue job))
  visit : ∀ s job, s.sweeper.state = .sweeping job → P s → P (s.recomputeImages (s.visit job))
  abort : ∀ s job, s.sweeper.state = .sweeping job → P s →
    P (s.recomputeImages ((s.abortSweep job).latchSweep .aborted job s.sweeper.changed))
  poll : ∀ s loop a, (s.loopState loop).inFlight = none → s.nextPoll loop = some a → P s →
    P (s.sendPoll loop { s.loopState loop with position := a } a false)
  discovery : ∀ s loop a, (s.loopState loop).inFlight = none → s.nextDiscovery loop (s.loopState loop).cursor = some a → P s →
    P (s.sendPoll loop { s.loopState loop with position := 0, cursor := a } a true)
  newRound : ∀ s loop, (s.loopState loop).inFlight = none → P s → P (s.setLoop loop { s.loopState loop with position := 0 })
  reply : ∀ s loop p, (s.loopState loop).inFlight = some p → P s → P (s.takeReply loop p)
  report : ∀ s loop n bit ts, P s → P (s.takeReport loop n bit ts)
  miss : ∀ s loop p, (s.loopState loop).inFlight = some p → P s → P (s.recomputeImages (s.takeMiss loop p))
  takeEntry : ∀ s, P s → P s.takeEntry
  refusePress : ∀ s e r, P s → P (s.refusePress e r)
  fadeStep : ∀ s t, P s →
    P (s.recomputeImages { s with holds := s.holds.filterMap Hold.stepped, timers := { s.timers with fadeStep := t } })
  minute : ∀ s t, P s →
    P (s.recomputeImages { s with holds := s.holds.filterMap Hold.minuted, timers := { s.timers with minute := t } })
  refresh : ∀ s r t, r < 4 → P s →
    P { s.setRack r { s.rack r with lastSent := s.rackCodes r } with
        rackInFlight := some r, timers := { s.timers with refresh := t } }
  status : ∀ s r entries, s.rackInFlight = some r → faultsFit entries = true → r < 4 → P s →
    P (s.recomputeImages (({ s with rackInFlight := none }.rackReplied r).countFaults r entries))
  rackMiss : ∀ s r, s.rackInFlight = some r → P s → P ({ s with rackInFlight := none }.rackMissed r)
  faultMinute : ∀ s t, P s →
    P { s with circuits := s.circuits.map CircuitLive.decayed, timers := { s.timers with faultMinute := t } }

/-! ## Recomputations from states that agree -/

/-- A recomputation reads the state before the action only in its images' inputs. -/
theorem State.recomputeImages_before {b b' : State} (after : State) (h : ∀ n, b.imageInputs n = b'.imageInputs n) :
    b.recomputeImages after = b'.recomputeImages after := by
  unfold State.recomputeImages
  congr 2
  funext n v
  unfold State.recomputeOne
  rw [h n]

/-! ## Commands -/

theorem whenPowered_keeps {P : State → Prop} {s s' t : State} (hs : P s) (hs' : P s') (h : whenPowered s s' = .next t) : P t := by
  rw [whenPowered_eq] at h
  cases h
  split
  · exact hs'
  · exact hs

/-- A host command keeps what its action keeps. -/
theorem hostCommand_keeps {P : State → Prop} (k : Keeps P) {s t : State} {act : State → Reply} (hs : P s)
    (hact : ∀ u, P u → P (act u).state) (h : hostCommand s act = .next t) : P t :=
  whenPowered_keeps hs
    (k.frame _ _ _ _ (hact _ (k.frame s s.pending s.clock (s.shiftFrame 96).port hs))) h

theorem Keeps.enterPanic {P : State → Prop} (k : Keeps P) {s : State} (cause : ModeCause) (hs : P s) :
    P (s.recomputeImages (s.enterPanic cause)) := by
  unfold State.enterPanic
  split
  · exact k.recompute s hs
  · exact k.mode s .panic cause (by simp) (by simp) hs

theorem checkSetMode_ok {s : State} {code : Nat} {m : Mode} (h : checkSetMode s code = .ok m) :
    s.mode ≠ .panic ∧ (m = .show → s.lock.isHeld = true) := by
  unfold checkSetMode at h
  split at h
  · cases h
  split at h
  · cases h
  split at h
  · cases h
  split at h
  · cases h
  split at h
  · cases h
  split at h
  · cases h
  rename_i hp _ _ hl
  cases h
  refine ⟨hp, fun hm => ?_⟩
  cases hk : s.lock with
  | free => exact absurd ⟨hm, hk⟩ hl
  | first _ => rfl
  | windowed _ => rfl

/-- The entry taken, the state differs from the one before in its queue and current entry alone. -/
theorem takeEntry_frame (s : State) : s.takeEntry = { s with queue := s.takeEntry.queue, current := s.takeEntry.current } := by
  unfold State.takeEntry; split <;> rfl

theorem recomputeImages_takeEntry (s after : State) : s.recomputeImages after = s.takeEntry.recomputeImages after :=
  State.recomputeImages_before after (fun _ => by rw [takeEntry_frame]; rfl)

/-- What the checks of an accepted PRESS have found (R46, R47, R49 to R51). -/
theorem checkPress_ok {s : State} {e : PressEntry} {i : Nat} (h : s.checkPress e = .ok i) :
    s.findBinding e = .ok i ∧
    s.zoneLocks (s.pressZone (s.binding i)) (s.slot e.station).authority = false ∧
    ((s.binding i).kind = .holdToRun → (s.live e.station).presence = .online) ∧
    s.checkTargets (s.binding i) ((s.binding i).originator i) (s.targets (s.binding i).target (s.binding i).level) = none := by
  unfold State.checkPress at h
  split at h
  · cases h
  · rename_i j hj
    simp only [] at h
    split at h
    · cases h
    split at h
    · cases h
    split at h
    · cases h
    split at h
    · cases h
    · cases h
      rename_i _ hz hp ht
      refine ⟨hj, Bool.eq_false_iff.mpr hz, fun hk => ?_, ht⟩
      by_contra hne
      exact hp ⟨hk, hne⟩

/-- An accepted PRESS has room for the holds that it creates (R51). -/
theorem room_of_checkTargets {s : State} {b : Binding} {o : Originator} {targets : List (Nat × Nat)}
    (h : s.checkTargets b o targets = none) (hk : placesHolds b.kind (s.anyLiveOn o targets) = true) :
    lacking s.holds o targets ≤ freeRecords s.holds := by
  unfold State.checkTargets at h
  simp only [] at h
  split at h
  · rename_i hh
    exfalso
    revert hh hk
    cases b.kind <;> simp [BindingKind.hasTarget, placesHolds]
  split at h
  · cases h
  split at h
  · cases h
  split at h
  · cases h
  · rename_i hn
    by_contra hc
    exact hn ⟨hk, by omega⟩

theorem Keeps.performPress {P : State → Prop} (k : Keeps P) {s : State} {e : PressEntry} {i : Nat}
    (h : s.checkPress e = .ok i) (hs : P s) : P (s.recomputeImages (s.performPress e i)) := by
  obtain ⟨_, hz, hrun, ht⟩ := checkPress_ok h
  have hlevel : (s.binding i).level ≤ 1000 ∨ ∃ j, (s.binding i).level = (s.binding j).level := Or.inr ⟨i, rfl⟩
  unfold State.performPress
  simp only []
  cases hk : (s.binding i).kind with
  | latchOn =>
    exact k.place s _ _ _ hlevel rfl (room_of_checkTargets ht (by rw [hk]; rfl)) (fun h => by cases h) hs
  | latchOff => exact k.release s _ hs
  | toggle =>
    simp only []
    cases hl : s.anyLiveOn ((s.binding i).originator i) (s.targets (s.binding i).target (s.binding i).level) with
    | true => rw [if_pos rfl]; exact k.toggleOff s _ _ _ hlevel rfl rfl hs
    | false =>
      rw [if_neg (by simp)]
      have hroom := room_of_checkTargets ht (by rw [hk, hl]; rfl)
      exact k.place s _ _ _ hlevel rfl hroom (fun h => by cases h) hs
  | holdToRun =>
    exact k.place s _ _ _ hlevel rfl (room_of_checkTargets ht (by rw [hk]; rfl)) (fun _ => ⟨e.station, rfl, hrun hk⟩) hs
  | raise => exact k.ramps s _ _ _ _ rfl (room_of_checkTargets ht (by rw [hk]; rfl)) hs
  | lower => exact k.ramps s _ _ _ _ rfl (room_of_checkTargets ht (by rw [hk]; rfl)) hs
  | stationClear => exact k.release s _ hs
  | panic => exact k.enterPanic _ hs

theorem Keeps.resolveNext {P : State → Prop} (k : Keeps P) {s : State} {edge : Edge} {resolve : State → PressEntry → State}
    (hr : ∀ u e, P u → P (u.recomputeImages (resolve u e))) (hs : P s) : P (s.resolveNext edge resolve) := by
  unfold State.resolveNext
  split
  · split
    · rw [recomputeImages_takeEntry]
      exact hr _ _ (k.takeEntry s hs)
    · exact hs
  · exact hs

theorem Keeps.resolvePress {P : State → Prop} (k : Keeps P) (s : State) (e : PressEntry) (hs : P s) :
    P (s.recomputeImages (s.resolvePress e)) := by
  unfold State.resolvePress
  split
  · rename_i r _
    rw [State.recomputeImages_same (before := s) (after := s.refusePress e r) (fun _ => rfl)]
    exact k.refusePress s e _ hs
  · rename_i i h
    exact k.performPress h hs

theorem Keeps.resolveRelease {P : State → Prop} (k : Keeps P) (s : State) (e : PressEntry) (hs : P s) :
    P (s.recomputeImages (s.resolveRelease e)) := by
  unfold State.resolveRelease
  split
  · exact k.recompute s hs
  · unfold State.performRelease
    simp only []
    split
    · exact k.release s _ hs
    · exact k.stopRamps s _ _ hs
    · exact k.stopRamps s _ _ hs
    · exact k.recompute s hs

/-- A record that WRITE_BINDING accepts is present and has its fields within range (R11). -/
theorem readRecord_fits {r : BitVec 72} {b : Binding} (h : readRecord r = some b) : b.present = true ∧ b.fits = true := by
  unfold readRecord at h
  split at h
  · split at h
    · simp only [] at h
      rw [Option.ite_none_right_eq_some, Option.some.injEq] at h
      obtain ⟨hfit, h⟩ := h
      rw [← h]
      exact ⟨rfl, hfit⟩
    · cases h
  · cases h

/-- A continuation is that of an ABORTED sweep of the same circuits (R170). -/
theorem continuation_some {w : Sweeper} {old new : Nat} {job : SweepJob} (h : w.continuation old new = some job) :
    w.state = .aborted job ∧ job.oldCircuit = old ∧ job.newCircuit = new := by
  unfold Sweeper.continuation at h
  split at h
  · rename_i j hj
    rw [Option.ite_none_right_eq_some, Option.some.injEq] at h
    obtain ⟨hc, rfl⟩ := h
    exact ⟨hj, hc⟩
  · cases h

/-- A miss of a rack changes no image's inputs. -/
theorem rackMissed_inputs (s : State) (r n : Nat) :
    ({ s with rackInFlight := none }.rackMissed r).imageInputs n = s.imageInputs n := by
  unfold State.rackMissed
  simp only []
  split
  · rfl
  · split <;> rfl

theorem Keeps.replyOn {P : State → Prop} (k : Keeps P) {s : State} {loop : Loop} {address : Nat} {valid : Bool}
    {contents : State → Nat → State} (hc : ∀ u n, P u → P (contents u n)) (hs : P s) :
    P (s.replyOn loop address valid contents) := by
  unfold State.replyOn
  split
  · exact hs
  · rename_i p hp
    split
    · exact hc _ _ (k.reply s loop p hp hs)
    · exact k.miss s loop p hp hs

/-- A property that every action keeps is kept by every command. -/
theorem Keeps.exec {P : State → Prop} (k : Keeps P) (c : Instr) (s t : State) (hs : P s) (h : exec c s = .next t) : P t := by
  cases c
  case startUp p => cases h; exact k.startUp s p hs
  case powerLoss => cases h; exact k.powerLoss s hs
  case badFrame edges =>
    simp only [Machine.exec, execBadFrame] at h
    split at h
    · cases h
    · exact whenPowered_keeps hs (k.frame s s.pending s.clock _ hs) h
  case statusOnlyFrame =>
    simp only [Machine.exec, execStatusOnlyFrame] at h
    exact whenPowered_keeps hs (k.frame s s.pending s.clock _ hs) h
  case badCommand code =>
    simp only [Machine.exec, execBadCommand] at h
    split at h
    · cases h
    · exact hostCommand_keeps k hs (fun u hu => k.writeSense _ _ _ _ hu) h
  case nop =>
    simp only [Machine.exec, execNop] at h
    exact hostCommand_keeps k hs (fun u hu => hu) h
  case identify =>
    simp only [Machine.exec, execIdentify] at h
    exact hostCommand_keeps k hs (fun u hu => hu) h
  case writeStation n e b c a =>
    simp only [Machine.exec, execWriteStation] at h
    refine hostCommand_keeps k hs (fun u hu => ?_) h
    split
    · exact k.writeSense _ _ _ _ hu
    · rename_i hc
      simp at hc
      exact k.slot u n.toNat _ hc.1 (by exact hc.2.1) (by simp; omega) (by simp; omega) (by simp; omega) hu
  case readStation n =>
    simp only [Machine.exec, execReadStation] at h
    refine hostCommand_keeps k hs (fun u hu => ?_) h
    split
    · exact k.writeSense _ _ _ _ hu
    · exact hu
  case loopRestart l =>
    simp only [Machine.exec, execLoopRestart] at h
    refine hostCommand_keeps k hs (fun u hu => ?_) h
    split
    · exact k.writeSense _ _ _ _ hu
    · exact k.loopRestart u _ hu
  case writeBinding i r =>
    simp only [Machine.exec, execWriteBinding] at h
    refine hostCommand_keeps k hs (fun u hu => ?_) h
    split
    · exact k.writeSense _ _ _ _ hu
    rename_i ha
    split
    · exact k.writeSense _ _ _ _ hu
    split
    · exact k.binding u i.toNat _ (by simpa using ha) (by omega) (Or.inl rfl) hu
    split
    · rename_i b hb
      exact k.binding u i.toNat b (by simpa using ha) (by omega) (Or.inr (readRecord_fits hb)) hu
    · exact k.writeSense _ _ _ _ hu
  case readBinding i =>
    simp only [Machine.exec, execReadBinding] at h
    refine hostCommand_keeps k hs (fun u hu => ?_) h
    split
    · exact k.writeSense _ _ _ _ hu
    · exact hu
  case clearBinding i =>
    simp only [Machine.exec, execClearBinding] at h
    refine hostCommand_keeps k hs (fun u hu => ?_) h
    split
    · exact k.writeSense _ _ _ _ hu
    rename_i ha
    split
    · exact k.writeSense _ _ _ _ hu
    · exact k.binding u i.toNat _ (by simpa using ha) (by omega) (Or.inl rfl) hu
  case writeCircuit c e f ho pa cu me =>
    simp only [Machine.exec, execWriteCircuit] at h
    refine hostCommand_keeps k hs (fun u hu => ?_) h
    split
    · exact k.writeSense _ _ _ _ hu
    rename_i ha
    split
    · exact k.writeSense _ _ _ _ hu
    rename_i hc
    split
    · split
      · exact k.writeSense _ _ _ _ hu
      · rename_i he
        refine k.attrs u c.toNat _ (by simpa using ha) (by omega) (by simp only []; omega) rfl (fun h1 => ?_) hu
        simp only [] at h1 ⊢
        by_contra h2
        exact he ⟨h1, by simpa using h2⟩
    · exact k.writeSense _ _ _ _ hu
  case readCircuit c =>
    simp only [Machine.exec, execReadCircuit] at h
    refine hostCommand_keeps k hs (fun u hu => ?_) h
    split
    · exact k.writeSense _ _ _ _ hu
    · exact hu
  case retireCircuit c =>
    simp only [Machine.exec, execRetireCircuit] at h
    refine hostCommand_keeps k hs (fun u hu => ?_) h
    split
    · exact k.writeSense _ _ _ _ hu
    rename_i ha
    split
    · exact k.writeSense _ _ _ _ hu
    split
    · exact k.writeSense _ _ _ _ hu
    rename_i he
    split
    · exact k.discard u hu
    · exact k.retire u c.toNat (by simpa using ha) (by omega) (by simpa using he) hu
  case restoreCircuit c =>
    simp only [Machine.exec, execRestoreCircuit] at h
    refine hostCommand_keeps k hs (fun u hu => ?_) h
    split
    · exact k.writeSense _ _ _ _ hu
    rename_i ha
    split
    · exact k.writeSense _ _ _ _ hu
    · exact k.restore u c.toNat (by simpa using ha) (by omega) hu
  case listHolds c n =>
    simp only [Machine.exec, execListHolds] at h
    refine hostCommand_keeps k hs (fun u hu => ?_) h
    split
    · exact k.writeSense _ _ _ _ hu
    split
    · exact hu
    · exact k.writeSense _ _ _ _ hu
  case groupAdd g c =>
    simp only [Machine.exec, execGroupAdd] at h
    refine hostCommand_keeps k hs (fun u hu => ?_) h
    split
    · exact k.writeSense _ _ _ _ hu
    rename_i ha
    split
    · exact k.writeSense _ _ _ _ hu
    split
    · exact k.writeSense _ _ _ _ hu
    rename_i hd
    split
    · exact k.writeSense _ _ _ _ hu
    rename_i hl
    exact k.groupAdd u g.toNat c.toNat (by simpa using ha) (by omega) (by omega) (by simpa using hd) (by simpa using hl) hu
  case groupRemove g c =>
    simp only [Machine.exec, execGroupRemove] at h
    refine hostCommand_keeps k hs (fun u hu => ?_) h
    split
    · exact k.writeSense _ _ _ _ hu
    rename_i ha
    split
    · exact k.writeSense _ _ _ _ hu
    split
    · exact k.writeSense _ _ _ _ hu
    · exact k.groupRemove u g.toNat _ (by simpa using ha) (by omega) hu
  case groupRead g n =>
    simp only [Machine.exec, execGroupRead] at h
    refine hostCommand_keeps k hs (fun u hu => ?_) h
    split
    · exact k.writeSense _ _ _ _ hu
    split
    · exact hu
    · exact k.writeSense _ _ _ _ hu
  case presetSetEntry p c l =>
    simp only [Machine.exec, execPresetSetEntry] at h
    refine hostCommand_keeps k hs (fun u hu => ?_) h
    split
    · exact k.writeSense _ _ _ _ hu
    rename_i ha
    split
    · exact k.writeSense _ _ _ _ hu
    split
    · rename_i hp
      exact k.presetReplace u p.toNat _ c.toNat l.toNat (by simpa using ha) (by omega) (by omega) (by omega) hp hu
    · rename_i hp
      split
      · exact k.writeSense _ _ _ _ hu
      · rename_i hl
        exact k.presetAppend u p.toNat c.toNat l.toNat (by simpa using ha) (by omega) (by omega) (by omega) hp
          (by simpa using hl) hu
  case presetRemoveEntry p c =>
    simp only [Machine.exec, execPresetRemoveEntry] at h
    refine hostCommand_keeps k hs (fun u hu => ?_) h
    split
    · exact k.writeSense _ _ _ _ hu
    rename_i ha
    split
    · exact k.writeSense _ _ _ _ hu
    split
    · exact k.writeSense _ _ _ _ hu
    · exact k.presetRemove u p.toNat _ (by simpa using ha) (by omega) hu
  case presetSetAttr p f z =>
    simp only [Machine.exec, execPresetSetAttr] at h
    refine hostCommand_keeps k hs (fun u hu => ?_) h
    split
    · exact k.writeSense _ _ _ _ hu
    rename_i ha
    split
    · exact k.writeSense _ _ _ _ hu
    · exact k.presetAttr u p.toNat f.toNat z.toNat (by simpa using ha) (by omega) (by omega) (by omega) hu
  case presetRead p n =>
    simp only [Machine.exec, execPresetRead] at h
    refine hostCommand_keeps k hs (fun u hu => ?_) h
    split
    · exact k.writeSense _ _ _ _ hu
    split
    · exact hu
    · exact k.writeSense _ _ _ _ hu
  case placeHold ch tk n l f p =>
    simp only [Machine.exec, execPlaceHold] at h
    refine hostCommand_keeps k hs (fun u hu => ?_) h
    split
    · exact k.writeSense _ _ _ _ hu
    split
    · exact k.writeSense _ _ _ _ hu
    split
    · exact k.writeSense _ _ _ _ hu
    split
    · exact k.writeSense _ _ _ _ hu
    · rename_i hr
      exact k.place u _ _ _ (Or.inl (by omega)) rfl (Nat.le_of_not_lt hr) (fun h => by cases h) hu
  case releaseHold ch tk n =>
    simp only [Machine.exec, execReleaseHold] at h
    refine hostCommand_keeps k hs (fun u hu => ?_) h
    split
    · exact k.writeSense _ _ _ _ hu
    split
    · exact k.writeSense _ _ _ _ hu
    · exact k.release u _ hu
  case recallPreset p r =>
    simp only [Machine.exec, execRecallPreset] at h
    refine hostCommand_keeps k hs (fun u hu => ?_) h
    split
    · exact k.writeSense _ _ _ _ hu
    split
    · exact k.writeSense _ _ _ _ hu
    split
    · exact k.writeSense _ _ _ _ hu
    split
    · exact k.writeSense _ _ _ _ hu
    · rename_i hr
      exact k.place u _ _ _ (Or.inl (by omega)) rfl (Nat.le_of_not_lt hr) (fun h => by cases h) hu
  case releasePreset p =>
    simp only [Machine.exec, execReleasePreset] at h
    refine hostCommand_keeps k hs (fun u hu => ?_) h
    split
    · exact k.writeSense _ _ _ _ hu
    · exact k.release u _ hu
  case releaseOwner i =>
    simp only [Machine.exec, execReleaseOwner] at h
    refine hostCommand_keeps k hs (fun u hu => ?_) h
    split
    · exact k.writeSense _ _ _ _ hu
    · exact k.release u _ hu
  case setMode m =>
    simp only [Machine.exec, execSetMode] at h
    refine hostCommand_keeps k hs (fun u hu => ?_) h
    split
    · exact k.writeSense _ _ _ _ hu
    · rename_i hm
      obtain ⟨h1, h2⟩ := checkSetMode_ok hm
      split
      · exact hu
      · exact k.mode u _ _ h2 (fun _ => Or.inl h1) hu
  case setZoneMinimum m z v =>
    simp only [Machine.exec, execSetZoneMinimum] at h
    refine hostCommand_keeps k hs (fun u hu => ?_) h
    split
    · split
      · exact k.writeSense _ _ _ _ hu
      · rename_i hc
        exact k.zoneMinimum u _ z.toNat _ (fun he => hc (Or.inl he)) (by omega) hu
    · exact k.writeSense _ _ _ _ hu
  case setHoldoverLevel l =>
    simp only [Machine.exec, execSetHoldoverLevel] at h
    refine hostCommand_keeps k hs (fun u hu => ?_) h
    split
    · exact k.writeSense _ _ _ _ hu
    · exact k.holdoverLevel u l.toNat (by omega) hu
  case lockTake p =>
    simp only [Machine.exec, execLockTake] at h
    refine hostCommand_keeps k hs (fun u hu => ?_) h
    split
    · exact k.writeSense _ _ _ _ hu
    split
    · exact k.writeSense _ _ _ _ hu
    · exact k.lock u _ rfl hu
  case lockRenew t =>
    simp only [Machine.exec, execLockRenew] at h
    refine hostCommand_keeps k hs (fun u hu => ?_) h
    split
    · exact k.writeSense _ _ _ _ hu
    split
    · exact k.writeSense _ _ _ _ hu
    · split
      · exact k.writeSense _ _ _ _ hu
      · exact k.lock u _ rfl hu
    · split
      · exact k.writeSense _ _ _ _ hu
      split
      · exact k.writeSense _ _ _ _ (k.lapse u _ hu)
      · exact k.lock u _ rfl hu
  case lockGive =>
    simp only [Machine.exec, execLockGive] at h
    refine hostCommand_keeps k hs (fun u hu => ?_) h
    split
    · exact k.writeSense _ _ _ _ hu
    · rename_i hm
      exact k.lockFree u hm hu
  case panic =>
    simp only [Machine.exec, execPanic] at h
    exact hostCommand_keeps k hs (fun u hu => k.enterPanic _ hu) h
  case clearPanic =>
    simp only [Machine.exec, execClearPanic] at h
    refine hostCommand_keeps k hs (fun u hu => ?_) h
    split
    · rename_i hc
      exact k.mode u _ _ (by simp) (fun _ => Or.inr hc.2) hu
    · exact k.writeSense _ _ _ _ hu
  case retarget o n =>
    simp only [Machine.exec, execRetarget] at h
    refine hostCommand_keeps k hs (fun u hu => ?_) h
    split
    · exact k.writeSense _ _ _ _ hu
    rename_i ha
    split
    · exact k.writeSense _ _ _ _ hu
    rename_i hc
    simp only [not_or] at hc
    split
    · exact k.writeSense _ _ _ _ hu
    rename_i hr
    split
    · rename_i job hj
      obtain ⟨h1, h2, h3⟩ := continuation_some hj
      exact k.reissue u job h1 (by omega) (by omega) (by rw [h2, h3]; exact hc.2.2) hu
    · exact k.retarget u o.toNat n.toNat (by simpa using ha) (by omega) (by omega) hc.2.2 (by simpa using hr) hu
  case sweepAbort =>
    simp only [Machine.exec, execSweepAbort] at h
    refine hostCommand_keeps k hs (fun u hu => ?_) h
    split
    · rename_i job hj
      exact k.writeSense _ _ _ _ (k.abort u job hj hu)
    · exact k.writeSense _ _ _ _ hu
  case save =>
    simp only [Machine.exec, execSave] at h
    refine hostCommand_keeps k hs (fun u hu => ?_) h
    split
    · exact k.writeSense _ _ _ _ hu
    · exact k.save u hu
  case readSense =>
    simp only [Machine.exec, execReadSense] at h
    exact hostCommand_keeps k hs (fun u hu => k.clearSense u hu) h
  case readRefusal =>
    simp only [Machine.exec, execReadRefusal] at h
    exact hostCommand_keeps k hs (fun u hu => k.clearRefusal u hu) h
  case readEvents =>
    simp only [Machine.exec, execReadEvents] at h
    exact hostCommand_keeps k hs (fun u hu => k.clearEvents u hu) h
  case eventMask =>
    simp only [Machine.exec, execEventMask] at h
    exact hostCommand_keeps k hs (fun u hu => k.mask u _ hu) h
  case restart =>
    simp only [Machine.exec, execRestart] at h
    exact hostCommand_keeps k hs (fun u hu => k.restart u hu) h
  case poll l =>
    simp only [Machine.exec, execPoll] at h
    refine whenPowered_keeps hs ?_ h
    split
    · exact hs
    · rename_i hf
      split
      · rename_i a ha
        exact k.poll s l a (by simpa using hf) ha hs
      · exact hs
  case discoveryPoll l =>
    simp only [Machine.exec, execDiscoveryPoll] at h
    refine whenPowered_keeps hs ?_ h
    split
    · exact hs
    · rename_i hf
      simp only [not_or, Option.not_isSome_iff_eq_none] at hf
      split
      · rename_i a ha
        exact k.discovery s l a hf.1 ha hs
      · exact k.newRound s l hf.1 hs
  case idleReply l a =>
    simp only [Machine.exec, execIdleReply] at h
    exact whenPowered_keeps hs (k.replyOn (fun u n hu => hu) hs) h
  case keyReport l a b ts =>
    simp only [Machine.exec, execKeyReport] at h
    exact whenPowered_keeps hs (k.replyOn (fun u n hu => k.report u l n b ts hu) hs) h
  case stationMiss l =>
    simp only [Machine.exec, execStationMiss] at h
    exact whenPowered_keeps hs (k.replyOn (fun u n hu => hu) hs) h
  case pressEdge =>
    simp only [Machine.exec, execPressEdge] at h
    exact whenPowered_keeps hs (k.resolveNext (fun u e hu => k.resolvePress u e hu) hs) h
  case releaseEdge =>
    simp only [Machine.exec, execReleaseEdge] at h
    exact whenPowered_keeps hs (k.resolveNext (fun u e hu => k.resolveRelease u e hu) hs) h
  case fadeStep =>
    simp only [Machine.exec, execFadeStep] at h
    exact whenPowered_keeps hs (k.fadeStep s _ hs) h
  case minuteTimer =>
    simp only [Machine.exec, execMinuteTimer] at h
    exact whenPowered_keeps hs (k.minute s _ hs) h
  case panicInputActive =>
    simp only [Machine.exec, execPanicInputActive] at h
    exact whenPowered_keeps hs (k.panicInput s hs) h
  case panicInputInactive =>
    simp only [Machine.exec, execPanicInputInactive] at h
    exact whenPowered_keeps hs (k.panicInputOff s hs) h
  case lockTimerExpiry =>
    simp only [Machine.exec, execLockTimerExpiry] at h
    refine whenPowered_keeps hs ?_ h
    split
    · exact k.lapse s _ hs
    · exact hs
  case refreshTimer r =>
    simp only [Machine.exec, execRefreshTimer] at h
    exact whenPowered_keeps hs (k.refresh s r.toNat _ r.isLt hs) h
  case statusReply r es =>
    simp only [Machine.exec, execStatusReply] at h
    refine whenPowered_keeps hs ?_ h
    unfold State.endTransaction
    split
    · exact k.recompute s hs
    · rename_i q hq
      simp only []
      split
      · rename_i hc
        obtain ⟨rfl, hfit⟩ := hc
        exact k.status s r.toNat es hq hfit r.isLt hs
      · rw [State.recomputeImages_same (rackMissed_inputs _ q)]
        exact k.rackMiss s q hq hs
  case rackMiss =>
    simp only [Machine.exec, execRackMiss] at h
    refine whenPowered_keeps hs ?_ h
    unfold State.endTransaction
    split
    · exact hs
    · rename_i q hq
      exact k.rackMiss s q hq hs
  case faultMinuteTimer =>
    simp only [Machine.exec, execFaultMinuteTimer] at h
    exact whenPowered_keeps hs (k.faultMinute s _ hs) h
  case sweepVisit =>
    simp only [Machine.exec, execSweepVisit] at h
    refine whenPowered_keeps hs ?_ h
    split
    · rename_i job hj
      exact k.visit s job hj hs
    · exact hs
  case saveCompletion =>
    simp only [Machine.exec, execSaveCompletion] at h
    refine whenPowered_keeps hs ?_ h
    split
    · rename_i hst
      exact k.saved s _ _ hst hs
    · exact hs

/-- A property that every action keeps is kept by every step. -/
theorem Keeps.step {P : State → Prop} (k : Keeps P) (s t : State) (hs : P s) (h : step s = .next t) : P t := by
  refine step_keeps P (fun u q hu => k.frame u q u.clock u.port hu) (fun u hu => ?_) k.exec s t hs h
  unfold State.idle
  split
  · exact k.frame u u.pending (u.clock + 1) u.port hu
  · exact hu

end Sys2Proof.Machine
end

