-- ==== Sys2Proof/Laws/Frames.lean ====
section
/-! SUPPORT. Which fields each shared operation may change, one equation per operation: the state after it is the state before,
with only the fields named taken from the state after. Then what image pending and a valid reply come to. -/
namespace Sys2Proof.Machine.State

variable (s : State)

theorem discardContinuation_frame : s.discardContinuation = { s with sweeper := s.sweeper.afterEdit } := by
  unfold discardContinuation Sweeper.afterEdit
  cases s.sweeper.state <;> rfl

theorem adjustEnrollment_frame (n : Nat) (was now : Bool) :
    s.adjustEnrollment n was now =
      { s with stations := (s.adjustEnrollment n was now).stations, holds := (s.adjustEnrollment n was now).holds,
               events := (s.adjustEnrollment n was now).events } := by
  unfold adjustEnrollment
  split
  · split <;> rfl
  · split <;> rfl

theorem restartLoop_frame (loop : Loop) :
    s.restartLoop loop =
      { s with stations := (s.restartLoop loop).stations, loopA := (s.restartLoop loop).loopA,
               loopB := (s.restartLoop loop).loopB, queue := (s.restartLoop loop).queue,
               holds := (s.restartLoop loop).holds } := by
  cases loop <;> rfl

theorem enterPanic_frame (cause : ModeCause) :
    s.enterPanic cause =
      { s with mode := (s.enterPanic cause).mode, holds := (s.enterPanic cause).holds,
               events := (s.enterPanic cause).events } := by
  unfold enterPanic
  split <;> rfl

theorem lapse_frame (cause : ModeCause) :
    s.lapse cause =
      { s with mode := (s.lapse cause).mode, lock := .free, holds := (s.lapse cause).holds,
               events := (s.lapse cause).events } := by
  unfold lapse
  split <;> rfl

theorem rewriteRecord_frame (job : SweepJob) :
    s.rewriteRecord job =
      { s with config := { s.config with bindings := (s.rewriteRecord job).config.bindings,
                                         groups := (s.rewriteRecord job).config.groups,
                                         presets := (s.rewriteRecord job).config.presets } } := by
  unfold rewriteRecord
  simp only []
  split
  · split <;> rfl
  · rfl

theorem visit_frame (job : SweepJob) :
    s.visit job =
      { s with config := { s.config with bindings := (s.rewriteRecord job).config.bindings,
                                         groups := (s.rewriteRecord job).config.groups,
                                         presets := (s.rewriteRecord job).config.presets },
               circuits := (s.visit job).circuits, events := (s.visit job).events, sweeper := (s.visit job).sweeper } := by
  unfold visit
  simp only []
  have h := rewriteRecord_frame s job
  generalize s.rewriteRecord job = written at h
  split <;> rw [h]
  rfl

theorem sendPoll_frame (loop : Loop) (next : LoopState) (a : Nat) (discovery : Bool) :
    s.sendPoll loop next a discovery =
      { s with stations := (s.sendPoll loop next a discovery).stations, loopA := (s.sendPoll loop next a discovery).loopA,
               loopB := (s.sendPoll loop next a discovery).loopB } := by
  cases loop <;> rfl

theorem takeReply_frame (loop : Loop) (p : PollSent) :
    s.takeReply loop p =
      { s with stations := (s.takeReply loop p).stations, loopA := (s.takeReply loop p).loopA,
               loopB := (s.takeReply loop p).loopB, events := (s.takeReply loop p).events } := by
  unfold takeReply
  simp only []
  split <;> cases loop <;> rfl

theorem takeReport_frame (loop : Loop) (n : Nat) (bit : Bool) (ts : List Transition) :
    s.takeReport loop n bit ts =
      { s with stations := (s.takeReport loop n bit ts).stations, queue := (s.takeReport loop n bit ts).queue } := by
  unfold takeReport
  simp only []
  split
  · rfl
  · split
    · rfl
    · split <;> rfl

theorem takeMiss_frame (loop : Loop) (p : PollSent) :
    s.takeMiss loop p =
      { s with stations := (s.takeMiss loop p).stations, loopA := (s.takeMiss loop p).loopA,
               loopB := (s.takeMiss loop p).loopB, holds := (s.takeMiss loop p).holds,
               events := (s.takeMiss loop p).events } := by
  unfold takeMiss
  simp only []
  split
  · split <;> cases loop <;> rfl
  · split
    · split <;> cases loop <;> rfl
    · cases loop <;> rfl

theorem rackReplied_frame (r : Nat) :
    s.rackReplied r = { s with racks := (s.rackReplied r).racks, events := (s.rackReplied r).events } := by
  unfold rackReplied
  simp only []
  split <;> rfl

theorem rackMissed_frame (r : Nat) :
    s.rackMissed r = { s with racks := (s.rackMissed r).racks, events := (s.rackMissed r).events } := by
  unfold rackMissed
  simp only []
  split
  · rfl
  · split <;> rfl

theorem countFault_frame (c : Nat) :
    s.countFault c =
      { s with config := { s.config with circuits := (s.countFault c).config.circuits },
               circuits := (s.countFault c).circuits, holds := (s.countFault c).holds, events := (s.countFault c).events } := by
  unfold countFault
  simp only []
  split
  · split <;> rfl
  · split <;> rfl

/-- A property that each counted fault keeps is kept by a reply's fault entries. -/
theorem countFaults_keeps {P : State → Prop} (hP : ∀ u c, c < 384 → P u → P (u.countFault c)) (r : Nat) (hr : r < 4)
    (entries : List FaultEntry) (fits : faultsFit entries = true) (hs : P s) : P (s.countFaults r entries) := by
  have hslots : ∀ e ∈ entries, e.slot.toNat < 96 := by
    unfold faultsFit at fits
    simp only [Bool.and_eq_true, List.all_eq_true, decide_eq_true_eq] at fits
    exact fits.2
  unfold countFaults
  generalize (s.rack r).lastSent = codes
  have key : ∀ (l : List FaultEntry) (acc : State × List Nat), (∀ e ∈ l, e.slot.toNat < 96) → P acc.1 →
      P (l.foldl (countEntry codes r) acc).1 := by
    intro l
    induction l with
    | nil => intro acc _ h; exact h
    | cons e es ih =>
      intro acc hl h
      rw [List.foldl_cons]
      refine ih _ (fun x hx => hl x (List.mem_cons_of_mem _ hx)) ?_
      unfold countEntry
      simp only []
      split
      · exact h
      · exact hP _ _ (by have := hl e List.mem_cons_self; omega) h
  exact key entries _ hslots hs

theorem countFaults_frame (r : Nat) (entries : List FaultEntry) :
    s.countFaults r entries =
      { s with config := { s.config with circuits := (s.countFaults r entries).config.circuits },
               circuits := (s.countFaults r entries).circuits, holds := (s.countFaults r entries).holds,
               events := (s.countFaults r entries).events } := by
  unfold countFaults
  generalize (s.rack r).lastSent = codes
  have key : ∀ (l : List FaultEntry) (acc : State × List Nat),
      acc.1 = { s with config := { s.config with circuits := acc.1.config.circuits }, circuits := acc.1.circuits,
                       holds := acc.1.holds, events := acc.1.events } →
      (l.foldl (countEntry codes r) acc).1 =
        { s with config := { s.config with circuits := (l.foldl (countEntry codes r) acc).1.config.circuits },
                 circuits := (l.foldl (countEntry codes r) acc).1.circuits,
                 holds := (l.foldl (countEntry codes r) acc).1.holds,
                 events := (l.foldl (countEntry codes r) acc).1.events } := by
    intro l
    induction l with
    | nil => intro acc h; exact h
    | cons e es ih =>
      intro acc h
      rw [List.foldl_cons]
      apply ih
      unfold countEntry
      simp only []
      split
      · exact h
      · simp only []
        rw [countFault_frame]
        generalize acc.1.countFault (96 * r + e.slot.toNat) = T
        generalize acc.1 = A at *
        rw [h]
  exact key entries _ rfl

/-! ## The lock timer (R147) -/

theorem lockRunOut_iff : s.lockRunOut = true ↔
    ∃ h, (s.lock = .first h ∨ s.lock = .windowed h) ∧ h.since + Config.lockTicks h.period ≤ s.clock := by
  unfold lockRunOut
  cases s.lock <;> simp

/-! ## Image pending (R35) -/

variable {s}

/-- An action that changes neither the inputs of a station's image nor its image pending. -/
theorem pendingRecomputed_same {t : State} {n : Nat} (inputs : t.imageInputs n = s.imageInputs n)
    (pending : (t.live n).imagePending = (s.live n).imagePending) : s.PendingRecomputed t n := by
  unfold PendingRecomputed
  rw [if_neg (by simp [inputs]), pending]

/-- A recomputation after an action that has left image pending alone. -/
theorem pendingRecomputed_recomputed {before after : State} {n : Nat} (inputs : before.imageInputs n = s.imageInputs n)
    (pending : (after.live n).imagePending = (s.live n).imagePending) : s.PendingRecomputed (before.recomputeImages after) n := by
  unfold PendingRecomputed
  have hslot : (before.recomputeImages after).slot n = after.slot n := rfl
  have hinputs : (before.recomputeImages after).imageInputs n = after.imageInputs n := rfl
  have himage : (before.recomputeImages after).image n = after.image n := rfl
  have hflight : (before.recomputeImages after).imageInFlight n = after.imageInFlight n := rfl
  rw [hslot, hinputs, himage, hflight, live_recomputeImages]
  unfold recomputeOne
  rw [inputs]
  split
  · unfold StationLive.recomputed
    by_cases h : after.image n = (after.live n).lastImage
    · by_cases k : after.imageInFlight n = true ∨ (after.live n).forced = true
      · simp [h, k, pending]
      · simp [h, k]
    · simp [h]
  · exact pending

/-! ## Valid replies (R25, R27) -/

theorem stationNumber_lt {loop : Loop} {a : Nat} (h : a < 64) : stationNumber loop a < 128 := by
  cases loop <;> simp only [stationNumber, loopNumber] <;> omega

/-- The live half of the polled station after a valid reply. -/
theorem live_takeReply (s : State) (loop : Loop) (p : PollSent) (h : p.address < 64) :
    (s.takeReply loop p).live (stationNumber loop p.address) =
      ((s.live (stationNumber loop p.address)).received p (s.slot (stationNumber loop p.address)).enrolled
        (s.image (stationNumber loop p.address))).replied (s.slot (stationNumber loop p.address)).enrolled := by
  simp only [takeReply]
  split
  all_goals exact (live_setLive _ _ _ _).trans (if_pos ⟨rfl, stationNumber_lt h⟩)

/-- The live half of any other station. -/
theorem live_takeReply_other (s : State) (loop : Loop) (p : PollSent) {n : Nat} (h : n ≠ stationNumber loop p.address) :
    (s.takeReply loop p).live n = s.live n := by
  simp only [takeReply]
  split
  all_goals
    refine (live_setLive (s.endPoll loop) _ n _).trans ((if_neg (fun e => h e.1.symm)).trans ?_)
    cases loop <;> rfl

/-- What a valid reply does, before its contents are handled. -/
theorem takeReply_taken (s : State) (loop : Loop) (p : PollSent) (h : p.address < 64) :
    s.ReplyTaken (s.takeReply loop p) loop p := by
  have hevents : (s.takeReply loop p).events =
      if ((s.live (stationNumber loop p.address)).received p (s.slot (stationNumber loop p.address)).enrolled
        (s.image (stationNumber loop p.address))).newlyHeard (s.slot (stationNumber loop p.address)).enrolled = true then
      (s.latchStation (stationNumber loop p.address)).events else s.events := by
    simp only [takeReply]
    split <;> cases loop <;> rfl
  refine ⟨?_, fun m hm => live_takeReply_other s loop p hm, ?_⟩
  · intro l
    simp only [takeReply]
    split <;> cases l <;> cases loop <;> rfl
  · rw [hevents, live_takeReply s loop p h]
    cases hi : p.image <;> cases he : (s.slot (stationNumber loop p.address)).enrolled <;>
      cases hpr : (s.live (stationNumber loop p.address)).presence <;>
        simp [StationLive.received, StationLive.replied, StationLive.newlyHeard, hi, hpr]

end Sys2Proof.Machine.State
end

