-- ==== Sys2Proof/Laws/PerInstr.lean ====
section
/-! SUPPORT. The family FrameCodec: the frame that encodes a host command decodes to that command, one lemma per command. An event
of the block has no frame, and its lemma says nothing more. -/
namespace Sys2Proof

theorem leNat_leBytes (k x : Nat) : leNat (leBytes k x) = x % 256 ^ k := by
  induction k generalizing x with
  | zero => simp [leBytes, leNat, Nat.mod_one]
  | succ k ih =>
    have hb : (BitVec.ofNat 8 x).toNat = x % 256 := by rw [BitVec.toNat_ofNat]
    simp only [leBytes, leNat, ih, hb]
    rw [Nat.pow_succ, Nat.mul_comm (256 ^ k) 256, Nat.mod_mul]

/-- The two bytes of a number, read back. -/
theorem half_round (h : Half) : BitVec.ofNat 16 (leNat (leBytes 2 h.toNat)) = h := by
  have hl := h.isLt
  apply BitVec.eq_of_toNat_eq
  rw [leNat_leBytes, BitVec.toNat_ofNat]
  omega

/-- The nine bytes of a packed record, read back. -/
theorem record_round (r : BitVec 72) : BitVec.ofNat 72 (leNat (leBytes 9 r.toNat)) = r := by
  have hl := r.isLt
  apply BitVec.eq_of_toNat_eq
  rw [leNat_leBytes, BitVec.toNat_ofNat]
  omega

/-- A code that names no command. -/
theorem unnamed_code : ∀ code : Byte, code ∉ commandCodes → decodeCommand (padFrame [code]) = .badCommand code := by
  decide +kernel

namespace Laws.FrameCodec

/-- The frame of a host command decodes to it. -/
def Statement (i : Instr) : Prop := i.wellFormed = true → ∀ f, encodeCommand i = some f → decodeCommand f = i

theorem startUp (panicInput : Bool) : Statement (.startUp panicInput) := by
  intro _ f h
  cases h

theorem powerLoss : Statement .powerLoss := by
  intro _ f h
  cases h

theorem badFrame (edges : Nat) : Statement (.badFrame edges) := by
  intro _ f h
  cases h

theorem statusOnlyFrame : Statement .statusOnlyFrame := by
  intro _ f h
  cases h

theorem badCommand (code : Byte) : Statement (.badCommand code) := by
  intro hw f h
  cases h
  exact unnamed_code code (by simpa [Instr.wellFormed] using hw)

theorem nop : Statement .nop := by
  intro _ f h
  cases h
  rfl

theorem identify : Statement .identify := by
  intro _ f h
  cases h
  rfl

theorem writeStation (station enrolled : Byte) (base : Half) (count authority : Byte) :
    Statement (.writeStation station enrolled base count authority) := by
  intro _ f h
  cases h
  show Instr.writeStation station enrolled (BitVec.ofNat 16 (leNat (leBytes 2 base.toNat))) count authority = _
  rw [half_round]

theorem readStation (station : Byte) : Statement (.readStation station) := by
  intro _ f h
  cases h
  rfl

theorem loopRestart (loop : Byte) : Statement (.loopRestart loop) := by
  intro _ f h
  cases h
  rfl

theorem writeBinding (index : Half) (record : BitVec 72) : Statement (.writeBinding index record) := by
  intro _ f h
  cases h
  exact congrArg₂ Instr.writeBinding (half_round index) (record_round record)

theorem readBinding (index : Half) : Statement (.readBinding index) := by
  intro _ f h
  cases h
  show Instr.readBinding (BitVec.ofNat 16 (leNat (leBytes 2 index.toNat))) = _
  rw [half_round]

theorem clearBinding (index : Half) : Statement (.clearBinding index) := by
  intro _ f h
  cases h
  show Instr.clearBinding (BitVec.ofNat 16 (leNat (leBytes 2 index.toNat))) = _
  rw [half_round]

theorem writeCircuit (circuit : Half) (egress : Byte) (floor : Half) (house panicParticipant curve mergeRule : Byte) :
    Statement (.writeCircuit circuit egress floor house panicParticipant curve mergeRule) := by
  intro _ f h
  cases h
  show Instr.writeCircuit (BitVec.ofNat 16 (leNat (leBytes 2 circuit.toNat))) egress
      (BitVec.ofNat 16 (leNat (leBytes 2 floor.toNat))) house panicParticipant curve mergeRule = _
  rw [half_round, half_round]

theorem readCircuit (circuit : Half) : Statement (.readCircuit circuit) := by
  intro _ f h
  cases h
  show Instr.readCircuit (BitVec.ofNat 16 (leNat (leBytes 2 circuit.toNat))) = _
  rw [half_round]

theorem retireCircuit (circuit : Half) : Statement (.retireCircuit circuit) := by
  intro _ f h
  cases h
  show Instr.retireCircuit (BitVec.ofNat 16 (leNat (leBytes 2 circuit.toNat))) = _
  rw [half_round]

theorem restoreCircuit (circuit : Half) : Statement (.restoreCircuit circuit) := by
  intro _ f h
  cases h
  show Instr.restoreCircuit (BitVec.ofNat 16 (leNat (leBytes 2 circuit.toNat))) = _
  rw [half_round]

theorem listHolds (circuit position : Half) : Statement (.listHolds circuit position) := by
  intro _ f h
  cases h
  show Instr.listHolds (BitVec.ofNat 16 (leNat (leBytes 2 circuit.toNat)))
      (BitVec.ofNat 16 (leNat (leBytes 2 position.toNat))) = _
  rw [half_round, half_round]

theorem groupAdd (group : Byte) (circuit : Half) : Statement (.groupAdd group circuit) := by
  intro _ f h
  cases h
  show Instr.groupAdd group (BitVec.ofNat 16 (leNat (leBytes 2 circuit.toNat))) = _
  rw [half_round]

theorem groupRemove (group : Byte) (circuit : Half) : Statement (.groupRemove group circuit) := by
  intro _ f h
  cases h
  show Instr.groupRemove group (BitVec.ofNat 16 (leNat (leBytes 2 circuit.toNat))) = _
  rw [half_round]

theorem groupRead (group position : Byte) : Statement (.groupRead group position) := by
  intro _ f h
  cases h
  rfl

theorem presetSetEntry (preset : Byte) (circuit level : Half) : Statement (.presetSetEntry preset circuit level) := by
  intro _ f h
  cases h
  show Instr.presetSetEntry preset (BitVec.ofNat 16 (leNat (leBytes 2 circuit.toNat)))
      (BitVec.ofNat 16 (leNat (leBytes 2 level.toNat))) = _
  rw [half_round, half_round]

theorem presetRemoveEntry (preset : Byte) (circuit : Half) : Statement (.presetRemoveEntry preset circuit) := by
  intro _ f h
  cases h
  show Instr.presetRemoveEntry preset (BitVec.ofNat 16 (leNat (leBytes 2 circuit.toNat))) = _
  rw [half_round]

theorem presetSetAttr (preset : Byte) (fade : Half) (zone : Byte) : Statement (.presetSetAttr preset fade zone) := by
  intro _ f h
  cases h
  show Instr.presetSetAttr preset (BitVec.ofNat 16 (leNat (leBytes 2 fade.toNat))) zone = _
  rw [half_round]

theorem presetRead (preset position : Byte) : Statement (.presetRead preset position) := by
  intro _ f h
  cases h
  rfl

theorem placeHold (channel targetKind : Byte) (number level fade : Half) (priority : Byte) :
    Statement (.placeHold channel targetKind number level fade priority) := by
  intro _ f h
  cases h
  show Instr.placeHold channel targetKind (BitVec.ofNat 16 (leNat (leBytes 2 number.toNat)))
      (BitVec.ofNat 16 (leNat (leBytes 2 level.toNat))) (BitVec.ofNat 16 (leNat (leBytes 2 fade.toNat))) priority = _
  rw [half_round, half_round, half_round]

theorem releaseHold (channel targetKind : Byte) (number : Half) : Statement (.releaseHold channel targetKind number) := by
  intro _ f h
  cases h
  show Instr.releaseHold channel targetKind (BitVec.ofNat 16 (leNat (leBytes 2 number.toNat))) = _
  rw [half_round]

theorem recallPreset (preset priority : Byte) : Statement (.recallPreset preset priority) := by
  intro _ f h
  cases h
  rfl

theorem releasePreset (preset : Byte) : Statement (.releasePreset preset) := by
  intro _ f h
  cases h
  rfl

theorem releaseOwner (index : Half) : Statement (.releaseOwner index) := by
  intro _ f h
  cases h
  show Instr.releaseOwner (BitVec.ofNat 16 (leNat (leBytes 2 index.toNat))) = _
  rw [half_round]

theorem setMode (mode : Byte) : Statement (.setMode mode) := by
  intro _ f h
  cases h
  rfl

theorem setZoneMinimum (mode zone value : Byte) : Statement (.setZoneMinimum mode zone value) := by
  intro _ f h
  cases h
  rfl

theorem setHoldoverLevel (level : Half) : Statement (.setHoldoverLevel level) := by
  intro _ f h
  cases h
  show Instr.setHoldoverLevel (BitVec.ofNat 16 (leNat (leBytes 2 level.toNat))) = _
  rw [half_round]

theorem lockTake (period : Byte) : Statement (.lockTake period) := by
  intro _ f h
  cases h
  rfl

theorem lockRenew (toggle : Byte) : Statement (.lockRenew toggle) := by
  intro _ f h
  cases h
  rfl

theorem lockGive : Statement .lockGive := by
  intro _ f h
  cases h
  rfl

theorem panic : Statement .panic := by
  intro _ f h
  cases h
  rfl

theorem clearPanic : Statement .clearPanic := by
  intro _ f h
  cases h
  rfl

theorem retarget (oldCircuit newCircuit : Half) : Statement (.retarget oldCircuit newCircuit) := by
  intro _ f h
  cases h
  show Instr.retarget (BitVec.ofNat 16 (leNat (leBytes 2 oldCircuit.toNat)))
      (BitVec.ofNat 16 (leNat (leBytes 2 newCircuit.toNat))) = _
  rw [half_round, half_round]

theorem sweepAbort : Statement .sweepAbort := by
  intro _ f h
  cases h
  rfl

theorem save : Statement .save := by
  intro _ f h
  cases h
  rfl

theorem readSense : Statement .readSense := by
  intro _ f h
  cases h
  rfl

theorem readRefusal : Statement .readRefusal := by
  intro _ f h
  cases h
  rfl

theorem readEvents : Statement .readEvents := by
  intro _ f h
  cases h
  rfl

theorem eventMask (station press circuit rack mode sweep store : Byte) :
    Statement (.eventMask station press circuit rack mode sweep store) := by
  intro _ f h
  cases h
  rfl

theorem restart : Statement .restart := by
  intro _ f h
  cases h
  rfl

theorem poll (loop : Loop) : Statement (.poll loop) := by
  intro _ f h
  cases h

theorem discoveryPoll (loop : Loop) : Statement (.discoveryPoll loop) := by
  intro _ f h
  cases h

theorem idleReply (loop : Loop) (address : BitVec 6) : Statement (.idleReply loop address) := by
  intro _ f h
  cases h

theorem keyReport (loop : Loop) (address : BitVec 6) (sequence : Bool) (transitions : List Transition) :
    Statement (.keyReport loop address sequence transitions) := by
  intro _ f h
  cases h

theorem stationMiss (loop : Loop) : Statement (.stationMiss loop) := by
  intro _ f h
  cases h

theorem pressEdge : Statement .pressEdge := by
  intro _ f h
  cases h

theorem releaseEdge : Statement .releaseEdge := by
  intro _ f h
  cases h

theorem fadeStep : Statement .fadeStep := by
  intro _ f h
  cases h

theorem minuteTimer : Statement .minuteTimer := by
  intro _ f h
  cases h

theorem panicInputActive : Statement .panicInputActive := by
  intro _ f h
  cases h

theorem panicInputInactive : Statement .panicInputInactive := by
  intro _ f h
  cases h

theorem lockTimerExpiry : Statement .lockTimerExpiry := by
  intro _ f h
  cases h

theorem refreshTimer (rack : BitVec 2) : Statement (.refreshTimer rack) := by
  intro _ f h
  cases h

theorem statusReply (rack : BitVec 2) (entries : List FaultEntry) : Statement (.statusReply rack entries) := by
  intro _ f h
  cases h

theorem rackMiss : Statement .rackMiss := by
  intro _ f h
  cases h

theorem faultMinuteTimer : Statement .faultMinuteTimer := by
  intro _ f h
  cases h

theorem sweepVisit : Statement .sweepVisit := by
  intro _ f h
  cases h

theorem saveCompletion : Statement .saveCompletion := by
  intro _ f h
  cases h

end Laws.FrameCodec

end Sys2Proof
end

