-- ==== Sys2Proof/Tests/Slice0.lean ====
section
/-! SUPPORT. Tests: the terms that the check of WellFormed refuses, a few frames and messages read bit by bit, one step of each
family on a small state, and for each statement with hypotheses states that meet them, clause by clause. -/
namespace Sys2Proof.Tests
open Sys2Proof Sys2Proof.Machine

set_option Elab.async false

/-! ## Small states -/

/-- OPEN, all else as after reset. -/
def ready : State := { State.reset with mode := .openHouse }

/-- A binding that acts on circuit 5. -/
def onFive (kind : BindingKind) : Binding :=
  { Binding.empty with present := true, kind := kind, target := .circuit 5, level := 800, fade := 15, priority := 3, zone := 2 }

/-- A hold of binding 0 on circuit 5, in slot 0. -/
def held : Hold :=
  { slot := 0, circuit := 5, originator := .binding 0, zone := some 2, kind := .latch, priority := 3,
    lastStation := some 1, level := 800, start := 200, target := 800, placedFade := 15, length := 60, elapsed := 60,
    ramp := none, state := .steady, parked := false, expiry := none }

/-- Station 1 enrolled and ONLINE, reaching bindings 0–7: one of each kind. -/
def house : State :=
  ((((((((((ready.setSlot 1 { enrolled := true, base := 0, count := 8, authority := 2 }).setLive 1
    { StationLive.fresh true with presence := .online }).setBinding 0 (onFive .latchOn)).setBinding 1
    (onFive .latchOff)).setBinding 2 (onFive .toggle)).setBinding 3 (onFive .holdToRun)).setBinding 4
    (onFive .raise)).setBinding 5 (onFive .lower)).setBinding 6
    { Binding.empty with present := true, kind := .stationClear }).setBinding 7
    { Binding.empty with present := true, kind := .panic })

/-- An edge of control `k` of station 1. -/
def edgeOf (k : Nat) (edge : Edge) : PressEntry := { station := 1, control := k, edge := edge, loop := .a }

/-- The house with one entry in the press queue. -/
def queued (k : Nat) (edge : Edge) : State := { house with queue := [edgeOf k edge] }

/-- The outcome is a next state with the property. -/
def gives (o : Host.Outcome State Fault Refusal) (p : State → Bool) : Bool :=
  match o with
  | .next t => p t
  | _ => false

/-- The outcome is a next state whose result buffer holds the code and the data. -/
def answers (o : Host.Outcome State Fault Refusal) (code : ResultCode) (fields : List (Nat × Nat) := []) : Bool :=
  gives o fun t => t.port.result == ⟨code, packData fields⟩

/-- A poll of station 1 that carries all a poll can. -/
def polled : PollSent := { address := 1, answer := .none, image := some darkImage, deny := 8 }

/-- The house with that poll in flight on loop A. -/
def polling : State := house.setLoop .a { cursor := 63, position := 1, inFlight := some polled }

/-- A sweep from circuit 5 to circuit 6, at a position. -/
def job (position : SweepPosition) : SweepJob := { oldCircuit := 5, newCircuit := 6, position := position }

/-- The house with that sweep in flight and its mark set. -/
def sweeping (position : SweepPosition) : State :=
  { house with sweeper := { state := .sweeping (job position), changed := 3 } }.mark 5 (some 6)

/-- The house with that sweep aborted. -/
def aborted (position : SweepPosition) : State := { house with sweeper := { state := .aborted (job position), changed := 3 } }

/-- A show lock held with period 5 since the start, at a moment. -/
def lockedAt (clock : Nat) (mode : Mode) (windowed : Bool) : State :=
  let h : LockHeld := { period := 5, lastToggle := false, since := 0 }
  { ready with clock := clock, mode := mode, lock := if windowed then .windowed h else .first h }

/-- The house in which the pool has no free record: 512 holds of console channels on other circuits. -/
def full : State :=
  { house with holds := (List.range 512).map fun k =>
      { held with slot := k, circuit := 6 + k % 128, originator := .console (k / 128), zone := none } }

/-! ## WellFormed refuses what no command is -/

theorem test_illFormed_badFrame : (Instr.badFrame 8).wellFormed = false ∧ (Instr.badFrame 96).wellFormed = false := by decide
theorem test_illFormed_badCommand : (Instr.badCommand 0x00).wellFormed = false ∧ (Instr.badCommand 0x44).wellFormed = false := by
  decide
theorem test_illFormed_idleReply : (Instr.idleReply .a 0).wellFormed = false := by decide
theorem test_illFormed_keyReport_address : (Instr.keyReport .a 0 false [⟨3, .press⟩]).wellFormed = false := by decide
theorem test_illFormed_keyReport_none : (Instr.keyReport .a 1 false []).wellFormed = false := by decide
theorem test_illFormed_keyReport_five :
    (Instr.keyReport .b 1 false (List.replicate 5 ⟨3, .press⟩)).wellFormed = false := by decide
theorem test_illFormed_statusReply_slot : (Instr.statusReply 0 [⟨96, .lampOpen⟩]).wellFormed = false := by decide
theorem test_illFormed_statusReply_five :
    (Instr.statusReply 0 (List.replicate 5 ⟨3, .overload⟩)).wellFormed = false := by decide
theorem test_illFormed_refused :
    exec (.badFrame 8) ready = .refused .illFormed ∧ exec (.badCommand 0x44) ready = .refused .illFormed := ⟨rfl, rfl⟩
theorem test_wellFormed_edges :
    (Instr.badFrame 95).wellFormed = true ∧ (Instr.badCommand 0x02).wellFormed = true ∧
    (Instr.keyReport .a 63 true (List.replicate 4 ⟨15, .release⟩)).wellFormed = true ∧
    (Instr.statusReply 3 [⟨95, .lampOpen⟩]).wellFormed = true := by decide

/-! ## Bits: frames and messages as the guide lays them out -/

/-- WRITE_STATION 64 + 9, enrolled, base 1023, 16 controls, authority 3 (R20, R183). -/
theorem test_frame_writeStation :
    decodeFrame 96 [0x08, 0x49, 0x01, 0xFF, 0x03, 0x10, 0x03, 0, 0, 0, 0, 0] = .writeStation 73 1 1023 16 3 := by decide
/-- WRITE_BINDING 258, the empty record but with present yes (R183). -/
theorem test_frame_writeBinding :
    decodeFrame 96 [0x10, 0x02, 0x01, 0x01, 0, 0x02, 0, 0, 0, 0, 0, 0x05] =
      .writeBinding 258 0x050000000000020001 := by decide
theorem test_frame_writeCircuit :
    decodeFrame 96 [0x18, 0x7F, 0x01, 0x01, 0x96, 0x00, 0x01, 0x00, 0x01, 0x00, 0xFF, 0xFF] =
      .writeCircuit 383 1 150 1 0 1 0 := by decide
theorem test_frame_presetSetEntry :
    decodeFrame 96 [0x23, 0x2F, 0x11, 0x00, 0xE8, 0x03, 0, 0, 0, 0, 0, 0] = .presetSetEntry 47 17 1000 := by decide
theorem test_frame_placeHold :
    decodeFrame 96 [0x28, 0x01, 0x02, 0x3F, 0x00, 0x20, 0x03, 0x58, 0x02, 0x07, 0, 0] = .placeHold 1 2 63 800 600 7 := by
  decide
theorem test_frame_setMode : decodeFrame 96 [0x30, 0x02, 0, 0, 0, 0, 0, 0, 0, 0, 0, 0] = .setMode 2 := by decide
theorem test_frame_retarget :
    decodeFrame 96 [0x38, 0x11, 0x00, 0x2C, 0x01, 0, 0, 0, 0, 0, 0, 0] = .retarget 17 300 := by decide
theorem test_frame_eventMask :
    decodeFrame 96 [0x43, 1, 0, 1, 0, 1, 0, 1, 0, 0, 0, 0] = .eventMask 1 0 1 0 1 0 1 := by decide
/-- A code that the catalogue does not hold, and frames of other lengths (R178, R181). -/
theorem test_frame_other :
    decodeFrame 96 [0x45, 0, 0, 0, 0, 0, 0, 0, 0, 0, 0, 0] = .badCommand 0x45 ∧ decodeFrame 8 [0x30] = .statusOnlyFrame ∧
    decodeFrame 95 [0x30] = .badFrame 95 ∧ decodeFrame 0 [] = .badFrame 0 := by decide
/-- IDLE from address 5: the check byte is the complement of 05h (2.3). -/
theorem test_reply_idle :
    decodeReply .b [0x05, 0xFA] = .idleReply .b 5 ∧ decodeReply .b [0x05, 0xFB] = .stationMiss .b ∧
    decodeReply .b [0x05] = .stationMiss .b := by decide
/-- KEY_REPORT from address 5, sequence bit 1, control 3 pressed and control 15 released: 45h, 82h, 03h, 8Fh, whose
sum is 159h. -/
theorem test_reply_keyReport :
    decodeReply .a [0x45, 0x82, 0x03, 0x8F, 0xA6] = .keyReport .a 5 true [⟨3, .press⟩, ⟨15, .release⟩] ∧
    decodeReply .a [0x45, 0x80, 0x3A] = .stationMiss .a ∧ decodeReply .a [0x45, 0x81, 0x13, 0x26] = .stationMiss .a := by
  decide
/-- STATUS of rack 2 with LAMP_OPEN of slot 5 and OVERLOAD of slot 95: A2h, 02h, 05h, DFh, whose sum is 188h (8.2). -/
theorem test_reply_status :
    decodeStatus [0xA2, 0x02, 0x05, 0xDF, 0xFE, 0x77] = .statusReply 2 [⟨5, .lampOpen⟩, ⟨95, .overload⟩] ∧
    decodeStatus [0xA2, 0x02, 0x05, 0xDF, 0xFE, 0x78] = .rackMiss ∧ decodeStatus [0xA2, 0x05] = .rackMiss := by decide
/-- A POLL with an ACK of bit 1, the image with control 0 ON and control 15 FAST_FLASH, and a deny mask of controls 0 and 8. -/
theorem test_poll_bytes :
    pollBytes { address := 9, answer := .ack true, image := some ((darkImage.set 0 .on).set 15 .fastFlash), deny := 0x0101 } =
      [0xC9, 0x05, 0x01, 0x00, 0x00, 0xC0, 0x01, 0x01, 0x6E] ∧
    pollBytes { address := 9, answer := .wait, image := none, deny := 0 } = [0x09, 0x02, 0xF4] := by decide
/-- A LEVELS frame of rack 3 with every code 255: 53h and 96 times FFh sum to 5FF3h. -/
theorem test_levels_bytes :
    levelsBytes 3 (Table.fill 96 255) = 0x53 :: (List.replicate 96 0xFF ++ [0xA0, 0x0C]) := by decide +kernel
theorem test_tableWord : decodeTableWord 8 0 = none ∧ ready.withFetchWord 8 0 = ready := ⟨rfl, rfl⟩

/-! ## Steps on small states -/

/-- The status byte: OPEN alone; with FRAME_BAD; in PANIC with a STORE event latched (10.2). -/
theorem test_statusByte :
    ({ ready with events := Events.cleared } : State).statusByte = 0x01 ∧
    ({ ready with events := Events.cleared, port := { ready.port with frameBad := true } } : State).statusByte = 0x41 ∧
    State.reset.statusByte = 0x85 ∧ (sweeping .first).statusByte = 0xA1 := by decide +kernel
/-- The fades of 5.5. -/
theorem test_fades :
    fadeLevel 200 800 60 25 = 450 ∧ fadeLevel 200 800 60 59 = 790 ∧ fadeLevel 200 800 28 5 = 307 ∧
    fadeLevel 800 200 28 5 = 693 ∧ fadeLevel 800 200 28 27 = 222 := by decide
/-- The levels and codes of 5.4 and 5.5. -/
theorem test_curves :
    [150, 437, 500, 600, 1000].map (curveCode .linear) = [38, 111, 128, 153, 255] ∧
    [150, 300, 400, 437, 500, 600, 1000].map (curveCode .square) = [6, 23, 41, 49, 64, 92, 255] ∧
    [437, 499, 500].map (curveCode .switched) = [0, 0, 255] ∧ curveCode .linear 450 = 115 ∧ curveCode .linear 790 = 201 := by
  decide
/-- A start-up from an INVALID store: PANIC, every circuit at full (R196). -/
theorem test_startUp : gives (step { State.reset with pending := [.startUp false] }) (fun t =>
    t.mode == .panic && t.outputLevel 383 == 1000 && t.rackCode 0 == 255) = true := by decide +kernel
theorem test_identify : gives (exec .identify ready) (fun t =>
    t.port.result == ⟨.ok, 0x7E0200040001800138_54⟩) = true := by decide +kernel
/-- PRESS of a LATCH_ON (R56): fade 15 is 60 steps; slot 0, zone 2, from the merged level 0. -/
theorem test_latchOn : gives (exec .pressEdge (queued 0 .press)) (fun t => t.queue == [] && t.holds ==
    [{ held with level := 0, start := 0, elapsed := 0, state := .fading }]) = true := by decide +kernel
/-- The same press over the hold at 800 takes its end of the list and its level (R73). -/
theorem test_latchOn_again : gives (exec .pressEdge { queued 0 .press with holds := [held] }) (fun t => t.holds ==
    [{ held with start := 800, elapsed := 0, state := .fading }]) = true := by decide +kernel
/-- LATCH_OFF fades the hold out from 800 over 60 steps (R77). -/
theorem test_latchOff : gives (exec .pressEdge { queued 1 .press with holds := [{ held with originator := .binding 1 }] })
    (fun t => t.holds == [{ held with originator := .binding 1, start := 800, target := 0, elapsed := 0,
                                      state := .fadingOut }]) = true := by decide +kernel
/-- A TOGGLE switches off what is on, and renews a hold in expiry warning (R59, R60). -/
theorem test_toggle : gives (exec .pressEdge { queued 2 .press with holds := [{ held with originator := .binding 2 }] })
      (fun t => t.holds.map Hold.state == [.fadingOut]) = true ∧
    gives (exec .pressEdge { queued 2 .press with holds := [{ held with originator := .binding 2, expiry := some 1 }] })
      (fun t => t.holds.map Hold.state == [.fading]) = true := by decide +kernel
/-- HOLD_TO_RUN places a momentary hold, its RELEASE edge releases it (R61, R66). -/
theorem test_holdToRun : gives (exec .pressEdge (queued 3 .press)) (fun t =>
      t.holds.map Hold.kind == [.momentary]) = true ∧
    gives (exec .releaseEdge { queued 3 .release with
        holds := [{ held with originator := .binding 3, kind := .momentary }] }) (fun t =>
      t.holds.map Hold.state == [.fadingOut]) = true := by decide +kernel
/-- RAISE ramps from 800: travel 15 is 60 steps for 1000, so 16 after one step; its RELEASE stops it (R62, R81, R82). -/
theorem test_raise : gives (exec .pressEdge { queued 4 .press with holds := [{ held with originator := .binding 4 }] })
      (fun t => gives (exec .fadeStep t) (fun u => u.holds.map Hold.level == [816] &&
        gives (exec .releaseEdge { u with queue := [edgeOf 4 .release] }) (fun v =>
          v.holds.map (fun h => (h.state, h.target, h.length)) == [(.steady, 816, 0)]))) = true := by decide +kernel
/-- STATION_CLEAR releases what station 1 touched last (R63); a PANIC binding enters PANIC (R64). -/
theorem test_clear_panic : gives (exec .pressEdge { queued 6 .press with holds := [held] }) (fun t =>
      t.holds.map Hold.state == [.fadingOut]) = true ∧
    gives (exec .pressEdge (queued 7 .press)) (fun t => t.mode == .panic && t.events.details.cause == .panicBinding) = true := by
  decide +kernel
/-- A press beyond the station's count: refused, recorded, a deny mark, a PRESS event (R52, R53). -/
theorem test_refused_press : gives (exec .pressEdge (queued 8 .press)) (fun t => (t.live 1).deny == 256 && t.holds == [] &&
    t.events.flags.press && t.refusal ==
      { valid := true, station := 1, control := 8, binding := none, code := .controlBeyondCount,
        earlierUnread := false }) = true := by decide +kernel
/-- The 60th step of a fade lands it; the 60th of a fade-out removes the hold (R75, R78). -/
theorem test_fadeStep : gives (exec .fadeStep { ready with holds :=
      [{ held with state := .fading, level := 790, elapsed := 59 },
       { held with slot := 1, state := .fadingOut, elapsed := 59 }] }) (fun t => t.holds == [held]) = true := by decide +kernel
/-- The last minute of an expiry releases the hold, the one before it warns (R83, R84). -/
theorem test_minute : gives (exec .minuteTimer { ready with holds := [{ held with expiry := some 1 },
      { held with slot := 1, expiry := some 2 }] }) (fun t =>
    t.holds.map (fun h => (h.state, h.expiry)) == [(.fadingOut, none), (.steady, some 1)]) = true := by decide +kernel
/-- SHOW with zone 2 CLOSED parks the hold; the lapse of the lock unparks it in HOLDOVER (R85, R153). -/
theorem test_parking :
    let zones := ready.config.zoneMinimums.set (zoneIndex .show 2) .closed
    let s := { lockedAt 400 .openHouse false with holds := [held], config := { ready.config with zoneMinimums := zones } }
    gives (exec (.setMode 2) s) (fun t =>
    t.holds == [{ held with parked := true }] && t.mode == .show &&
      gives (exec .lockTimerExpiry t) (fun u => u.holds == [held] && u.mode == .holdover && u.lock == .free &&
        u.events.details.cause == .late)) = true := by decide +kernel
/-- The lock in its closed half (199 of 200 ticks): EARLY; at 200 the renewal is valid (R149, R150). -/
theorem test_lockRenew :
    gives (exec (.lockRenew 1) (lockedAt 199 .show true)) (fun t =>
      t.lock == .free && t.mode == .holdover && t.port.result == ⟨.lockState, 2⟩) = true ∧
    gives (exec (.lockRenew 1) (lockedAt 200 .show true)) (fun t =>
      t.lock == .windowed { period := 5, lastToggle := true, since := 200 } && t.mode == .show &&
        t.port.result == ⟨.ok, packData [(2, 2), (1, 1), (10, 25)]⟩) = true := by decide +kernel
/-- The lock timer with period 5 runs out after 400 ticks (R147, R151): at 399 there is no expiry; at 400 the lock lapses LATE;
an expiry that arrived with a renewal taken first is not taken, and the renewal of an expiry taken first finds the lock FREE. -/
theorem test_lockTimer :
    gives (exec .lockTimerExpiry (lockedAt 399 .show true)) (fun t => t.lock.isHeld && t.mode == .show) = true ∧
    gives (exec .lockTimerExpiry (lockedAt 400 .show true)) (fun t => t.lock == .free && t.mode == .holdover &&
      gives (exec (.lockRenew 1) t) (fun u => u.lock == .free && u.port.result == ⟨.lockState, 0⟩)) = true ∧
    gives (exec (.lockRenew 1) (lockedAt 400 .show true)) (fun t => gives (exec .lockTimerExpiry t) (fun u =>
      u == t && u.mode == .show && u.lock == .windowed { period := 5, lastToggle := true, since := 400 })) = true := by
  decide +kernel
/-- A give in SHOW is refused; taken after the expiry it finds HOLDOVER and a FREE lock, and is accepted (R152, R153, log 22). -/
theorem test_lockGive : gives (exec .lockGive (lockedAt 400 .show true)) (fun t =>
      t.mode == .show && t.lock.isHeld && t.port.result.code == .modeConflict) = true ∧
    gives (exec .lockTimerExpiry (lockedAt 400 .show true)) (fun t => gives (exec .lockGive t) (fun u =>
      u.mode == .holdover && u.lock == .free && u.port.result == ⟨.ok, 0⟩)) = true := by
  decide +kernel
/-- A sweep from circuit 5 rewrites binding 0, then lies at binding 1; at preset 47 it ends (R172, R173). -/
theorem test_sweepVisit : gives (exec .sweepVisit (sweeping .first)) (fun t => (t.binding 0).target == .circuit 6 &&
      (t.binding 1).target == .circuit 5 && t.sweeper == { state := .sweeping (job ⟨.bindings, 1⟩), changed := 4 }) = true ∧
    gives (exec .sweepVisit (sweeping ⟨.presets, 47⟩)) (fun t => t.sweeper == { state := .idle, changed := 3 } &&
      (t.circuit 5).moving == none && t.events.flags.sweep) = true := by decide +kernel
/-- RETARGET moves the hold to the new circuit; a re-issue moves none (R170, R171, R176). -/
theorem test_retarget : gives (exec (.retarget 5 6) { house with holds := [held] }) (fun t =>
      t.holds == [{ held with circuit := 6 }] && (t.circuit 5).moving == some 6 && t.sweeper.changed == 0) = true ∧
    gives (exec (.retarget 5 6) { aborted ⟨.groups, 7⟩ with holds := [held] }) (fun t => t.holds == [held] &&
      t.sweeper == { state := .sweeping (job ⟨.groups, 7⟩), changed := 0 }) = true := by decide +kernel
/-- SWEEP_ABORT keeps the position; an accepted edit discards it (R175, R176). -/
theorem test_abort_edit : gives (exec .sweepAbort (sweeping ⟨.groups, 7⟩)) (fun t =>
      t.sweeper == { state := .aborted (job ⟨.groups, 7⟩), changed := 3 } &&
        t.sense.ref == .sweepPosition ⟨.groups, 7⟩) = true ∧
    gives (exec (.groupAdd 63 383) (aborted ⟨.groups, 7⟩)) (fun t => t.sweeper == { state := .idle, changed := 3 } &&
      t.group 63 == [383]) = true := by decide +kernel
/-- A fault of a circuit sent code 0 is ignored; a seventh of one sent code 255 retires it (R163, R164). -/
theorem test_faults :
    let s := { house with rackInFlight := some 0, holds := [held] }.setCircuit 5
      { moving := none, faultCount := 6, reported := false }
    gives (exec (.statusReply 0 [⟨5, .lampOpen⟩]) s) (fun t => (t.circuit 5).faultCount == 6 && t.holds == [held] &&
      (t.rack 0).state == .online) = true ∧
    gives (exec (.statusReply 0 [⟨5, .lampOpen⟩, ⟨5, .overload⟩])
        (s.setRack 0 { Rack.fresh with lastSent := Table.fill 96 255 })) (fun t =>
      (t.circuit 5).faultCount == 7 && (t.attrs 5).retired && t.holds == [] && t.rackCode 5 == 0 &&
        t.events.flags.circuit) = true := by decide +kernel
/-- Two circuits at 7 in one reply: both retired, the CIRCUIT detail that of the later entry, the RACK detail rack 3 ONLINE (R161,
R164). -/
theorem test_faults_two :
    let s := ({ ready with rackInFlight := some 3 } : State).setRack 3 { Rack.fresh with lastSent := Table.fill 96 255 }
    let s := (s.setCircuit 383 { CircuitLive.clear with faultCount := 6 }).setCircuit 288 { CircuitLive.clear with faultCount := 7 }
    gives (exec (.statusReply 3 [⟨95, .lampOpen⟩, ⟨0, .overload⟩, ⟨95, .overload⟩, ⟨1, .lampOpen⟩]) s) (fun t =>
      (t.attrs 383).retired && (t.attrs 288).retired && t.events.details.circuit == 288 && t.events.details.rack == 3 &&
        t.events.details.rackState == .online && !t.events.flags.mode) = true := by decide +kernel
/-- A report of two transitions enters the queue whole, or not at all when one place is left (R32). -/
theorem test_keyReport :
    gives (exec (.keyReport .a 1 false [⟨0, .press⟩, ⟨0, .release⟩]) polling) (fun t =>
      t.queue == [edgeOf 0 .press, edgeOf 0 .release] && (t.live 1).answer == .ack false &&
        (t.live 1).expected == some true) = true ∧
    gives (exec (.keyReport .a 1 false [⟨0, .press⟩, ⟨0, .release⟩])
        { polling with queue := List.replicate 31 (edgeOf 1 .press) }) (fun t =>
      t.queue.length == 31 && (t.live 1).answer == .wait) = true := by decide +kernel
/-- The packed record of R183 written and read back; an empty record reads back with byte 2 at 02h. -/
theorem test_binding_record :
    answers (exec (.readBinding 8) house) .ok [(72, 0x020000)] = true ∧
    gives (exec (.writeBinding 1023 0x00000000000000020011) house) (fun t =>
      t.binding 1023 == { Binding.empty with present := true, target := .circuit 0 }) = true ∧
    answers (exec (.writeBinding 1023 0x000000000000020001) house) .badParameter = true := by decide +kernel
/-- SAVE, its completion, and a power loss during the write (R193, R194). -/
theorem test_save : gives (exec .save house) (fun t => t.store == .writing house.config 0 &&
      gives (exec .saveCompletion t) (fun u => u.store == .valid house.config && u.events.details.storeOutcome == .saved) &&
      gives (exec .powerLoss t) (fun u => u.store == .invalid && !u.powered)) = true := by decide +kernel
/-- RESTART keeps the configuration and leaves PANIC only to the latch (R191, R156). -/
theorem test_restart : gives (exec .restart (sweeping .first)) (fun t => t.config == house.config && t.mode == .openHouse &&
      t.sweeper.state == .aborted (job .first) && (t.circuit 5).moving == none &&
      (t.live 1).presence == .unknown && t.port.result == ⟨.ok, packData [(3, 1), (1, 1)]⟩) = true := by decide +kernel
/-- A console hold of priority 7 at level 0 darkens an egress circuit to its floor (5.5's sequence, event 3). -/
theorem test_console : gives (exec (.placeHold 1 1 5 0 0 7)
      ({ ready with holds := [held] }.setAttrs 5 { CircuitAttrs.default with egress := true, floor := 150, curve := .square }))
      (fun t => t.mergedLevel 5 == 0 && t.outputLevel 5 == 150 && t.rackCode 5 == 6 &&
        gives (exec (.releaseHold 1 1 5) t) (fun u => u.outputLevel 5 == 800)) = true := by decide +kernel

/-- A console hold placed on a group: circuit 5's keeps its slot 2, the ones created take the lowest free slots 1 and 3 in turn. -/
theorem test_slots :
    let mine := { held with slot := 2, originator := .console 1, zone := none }
    let s := { ({ ready with holds := [held, mine] } : State) with config := { ready.config with
      groups := ready.config.groups.set 0 [7, 5, 6] } }
    gives (exec (.placeHold 1 2 0 500 0 4) s) (fun t =>
      t.holds.map (fun h => (h.circuit, h.slot)) == [(5, 0), (7, 1), (5, 2), (6, 3)]) = true := by decide +kernel

/-! ## Witnesses: states and operands that meet the hypotheses of each statement, clause by clause -/

/-- The states below have power; the plain house awaits no press, has no poll in flight, no sweep and no write. -/
theorem witness_powered :
    (ready.powered = true ∧ house.powered = true ∧ polling.powered = true ∧ full.powered = true) ∧
    ((sweeping .first).powered = true ∧ (aborted .first).powered = true ∧ (lockedAt 0 .show true).powered = true) ∧
    house.current = none ∧ house.queue = [] ∧ house.loopA.inFlight = none ∧ house.sweeper.active = false ∧
    house.store.busy = false ∧ house.pending = [] ∧ house.rackInFlight = none := by decide +kernel

theorem witness_CommandsComplete :
    (∀ n ∈ [0, 7, 9, 95, 97], (Instr.badFrame n).wellFormed = true) ∧ (Instr.badCommand 0x45).wellFormed = true ∧
    (Instr.idleReply .b 63).wellFormed = true ∧ (Instr.statusReply 0 []).wellFormed = true ∧
    (0x00 ∈ commandCodes ∧ 0x44 ∈ commandCodes) ∧
    ({ ready with powered := false } : State).powered = false ∧ Instr.nop ≠ .powerLoss ∧ ∀ p, Instr.nop ≠ .startUp p := by
  refine ⟨by decide, by decide, by decide, by decide, by decide, rfl, by decide, fun p h => by cases h⟩

theorem witness_StartUpLoadsTheStore :
    ({ ready with store := .valid house.config } : State).store = .valid house.config ∧
    (∀ image, ready.store ≠ .valid image) ∧
    ∀ image, ({ ready with store := .writing ready.config 0 } : State).store ≠ .valid image :=
  ⟨rfl, fun _ h => (by cases h), fun _ h => (by cases h)⟩

theorem witness_FramesWithoutAction :
    (∀ n ∈ [0, 7, 9, 95, 97], n ≠ 8 ∧ n ≠ 96) ∧ ∀ c ∈ ([0x02, 0x07, 0x0B, 0x45, 0xFF] : List Byte), c ∉ commandCodes := by
  decide

theorem witness_CommandFramesShiftOldResult :
    Instr.nop.code = some 0x00 ∧ Instr.restart.code = some 0x44 ∧ gives (exec .nop ready) (fun _ => true) = true ∧
    gives (exec .restart ready) (fun _ => true) = true := by decide +kernel

theorem witness_RefusalsChangeOnlyReports :
    (∀ b, Instr.setMode 4 ≠ .lockRenew b) ∧ gives (exec (.setMode 4) ready) (fun t => t.port.result.code != .ok) = true ∧
    gives (exec (.setMode 3) ready) (fun t => t.port.result.code == .ok) = true ∧ Instr.setMode 3 ≠ .readSense ∧
    Instr.setMode 3 ≠ .sweepAbort ∧ Instr.setMode 3 ≠ .restart :=
  ⟨fun b h => (by cases h), by decide +kernel, by decide +kernel, by decide, by decide, by decide⟩

theorem witness_StationWriteReplacesSlot :
    (∀ n ∈ ([1, 63, 65, 127] : List Byte), stationUsable n.toNat = true) ∧
    (∀ n ∈ ([0, 64, 128, 255] : List Byte), stationUsable n.toNat = false) ∧
    ((1023 : Half).toNat ≤ 1023 ∧ ¬ (1024 : Half).toNat ≤ 1023) ∧
    (1 ≤ (1 : Byte).toNat ∧ (16 : Byte).toNat ≤ 16 ∧ ¬ 1 ≤ (0 : Byte).toNat ∧ ¬ (17 : Byte).toNat ≤ 16) ∧
    ((3 : Byte).toNat ≤ 3 ∧ ¬ (4 : Byte).toNat ≤ 3) ∧ (house.slot 1).enrolled = ((1 : Byte) != 0) ∧
    gives (exec (.writeStation 127 1 1023 16 3) house) (fun t => t.slot 127 == ⟨true, 1023, 16, 3⟩) = true := by
  decide +kernel

theorem witness_EnrollmentChange :
    ((house.slot 2).enrolled = false ∧ (house.live 2).presence ≠ .heard) ∧
    (let s := house.setLive 2 { house.live 2 with presence := .heard }
     (s.slot 2).enrolled = false ∧ (s.live 2).presence = .heard ∧
      gives (exec (.writeStation 2 1 0 1 0) s) (fun t => (t.live 2).presence == .online) = true) ∧
    ((house.slot 1).enrolled = true ∧ (house.live 1).presence = .online ∧
      gives (exec (.writeStation 1 0 0 8 2) house) (fun t => (t.live 1).presence == .heard) = true) ∧
    (let s := house.setLive 1 { house.live 1 with presence := .silent }
     (s.slot 1).enrolled = true ∧ (s.live 1).presence ≠ .online ∧
      gives (exec (.writeStation 1 0 0 8 2) s) (fun t => (t.live 1).presence == .unknown) = true) := by decide +kernel

theorem witness_LoopRestart :
    (0 : Byte).toNat = loopNumber .a ∧ (1 : Byte).toNat = loopNumber .b ∧ 1 < (2 : Byte).toNat ∧ loopOf 1 = .a ∧
    loopOf 63 = .a ∧ loopOf 64 = .b ∧ loopOf 127 = .b := by decide

/-- The house with station 63 enrolled too, loop A's round standing at a position and its cursor at another. -/
def round (position cursor : Nat) : State :=
  (house.setSlot 63 { enrolled := true, base := 0, count := 8, authority := 2 }).setLoop .a
    { cursor := cursor, position := position, inFlight := none }

/-- The house with all its stations enrolled, loop A's round standing at a position. -/
def everyone (position : Nat) : State :=
  ({ house with config := { house.config with stations := Table.fill 128 (house.slot 1) } } : State).setLoop .a
    { cursor := 5, position := position, inFlight := none }

theorem witness_PollsCarryWhatIsOwed_all :
    ((everyone 63).loopState .a).inFlight = none ∧ 63 ≤ ((everyone 63).loopState .a).position ∧
    (∀ b ≤ 63, 1 ≤ b → (everyone 63).enrolledAt .a b = true) ∧
    gives (exec (.poll .a) (everyone 63)) (fun t => (t.loopState .a).position == 1 && (t.loopState .a).inFlight.isSome) = true ∧
    gives (exec (.discoveryPoll .a) (everyone 63)) (fun t =>
      t.loopState .a == { cursor := 5, position := 0, inFlight := none }) = true := by decide +kernel

theorem witness_PollsCarryWhatIsOwed :
    ((round 0 63).loopState .a).inFlight = none ∧
    ((round 0 63).enrolledAt .a 1 = true ∧ ∀ b < 1, 0 < b → 1 ≤ b → (round 0 63).enrolledAt .a b = false) ∧
    ((round 1 63).enrolledAt .a 63 = true ∧ ∀ b < 63, 1 < b → 1 ≤ b → (round 1 63).enrolledAt .a b = false) ∧
    (∀ b ≤ 63, 63 < b → 1 ≤ b → (round 63 63).enrolledAt .a b = false) ∧
    ((round 63 61).enrolledAt .a 62 = false ∧ ∀ b < 62, 61 < b → 1 ≤ b → (round 63 61).enrolledAt .a b = true) ∧
    ((round 63 62).enrolledAt .a 2 = false ∧ (∀ b ≤ 63, 62 < b → 1 ≤ b → (round 63 62).enrolledAt .a b = true) ∧
      ∀ b < 2, 1 ≤ b → (round 63 62).enrolledAt .a b = true) := by decide +kernel

theorem witness_ValidReplySetsPresence :
    ((polling.loopState .a).inFlight = some polled ∧ (1 : BitVec 6).toNat = polled.address) ∧
    ((polling.slot 1).enrolled = true ∧ (polling.live 1).presence = .online) ∧
    (let s := polling.setLive 1 { polling.live 1 with presence := .silent }
     (s.slot 1).enrolled = true ∧ (s.live 1).presence = .silent) ∧
    (let s := house.setLoop .a { cursor := 63, position := 1, inFlight := some { polled with image := none } }
     (s.loopState .a).inFlight = some { polled with image := none }) ∧
    (let s := house.setLoop .b { cursor := 63, position := 0, inFlight := some { polled with address := 63, image := none } }
     (s.loopState .b).inFlight = some { polled with address := 63, image := none } ∧ (63 : BitVec 6).toNat = 63 ∧
      (s.slot 127).enrolled = false ∧ (s.live 127).presence = .unknown) := by decide +kernel

theorem witness_KeyReportsAreTakenWhole :
    let one : List Transition := [⟨0, .press⟩]
    let four := List.replicate 4 (⟨15, .release⟩ : Transition)
    ((polling.loopState .a).inFlight = some polled ∧ (1 : BitVec 6).toNat = polled.address) ∧
    (1 ≤ one.length ∧ one.length ≤ 4 ∧ four.length ≤ 4) ∧
    ((polling.slot 1).enrolled = true ∧ (polling.live 1).expected = none ∧ four.length ≤ 32 - polling.queue.length) ∧
    (let s := { polling with queue := List.replicate 28 (edgeOf 0 .press) }
     four.length ≤ 32 - s.queue.length) ∧
    (let s := { polling with queue := List.replicate 29 (edgeOf 0 .press) }
     32 - s.queue.length < four.length) ∧
    (let s := polling.setLive 1 { polling.live 1 with expected := some true }
     (s.live 1).expected = some true ∧ ¬ ((s.live 1).expected = none ∨ (s.live 1).expected = some false)) ∧
    (let s := polling.setSlot 1 { polling.slot 1 with enrolled := false }
     (s.slot 1).enrolled = false ∧ (s.live 1).expected = none) := by decide +kernel

theorem witness_MissesAndInvalidReplies :
    ((polling.loopState .a).inFlight = some polled ∧ polled.address < 64 ∧ (polling.live 1).missCount = 0) ∧
    (let s := polling.setLive 1 { polling.live 1 with missCount := 2 }
     (s.slot 1).enrolled = true ∧ (s.live 1).missCount = 2) ∧
    (let s := polling.setLive 1 { polling.live 1 with missCount := 3, presence := .silent }
     (s.slot 1).enrolled = true ∧ (s.live 1).missCount ≠ 2) ∧
    (∀ k ∈ [0, 1, 2],
     let s := (polling.setSlot 1 { polling.slot 1 with enrolled := false }).setLive 1
       { polling.live 1 with missCount := k, presence := .heard }
     (s.slot 1).enrolled = false ∧ (s.live 1).presence = .heard ∧ (s.live 1).missCount = k) ∧
    (let s := polling.setLive 1 { polling.live 1 with presence := .unknown }
     (s.live 1).presence ≠ .heard) ∧
    ((2 : BitVec 6).toNat ≠ polled.address ∧ ([] : List Transition).length = 0 ∧
      4 < (List.replicate 5 (⟨0, .press⟩ : Transition)).length) ∧
    (house.loopState .a).inFlight = none := by decide +kernel

theorem witness_BindingWritesReplaceRecord :
    ((sweeping .first).sweeper.active = true ∧ 1023 < (1024 : Half).toNat ∧ (1023 : Half).toNat ≤ 1023) ∧
    (recordPresent (writeRecord Binding.empty) = false ∧ recordPresent (writeRecord (onFive .toggle)) = true) ∧
    (∀ b ∈ [onFive .latchOn, { onFive .raise with fade := 1 }, { onFive .lower with fade := 600, level := 1000 },
        { onFive .latchOff with target := .preset 47, priority := 7, authority := 3, zone := 15, owner := some 1023 },
        { onFive .holdToRun with target := .group 63, priority := 1, expiry := some 240 },
        { onFive .toggle with target := .circuit 383, expiry := some 1 },
        { onFive .panic with target := .absent }, { onFive .stationClear with target := .absent }],
      readRecord (writeRecord b) = some b) ∧
    ∀ b ∈ [{ onFive .raise with fade := 0 }, { onFive .lower with fade := 601 }, { onFive .latchOn with level := 1001 },
        { onFive .latchOff with target := .preset 48 }, { onFive .latchOn with priority := 0 },
        { onFive .holdToRun with target := .group 64 }, { onFive .holdToRun with target := .preset 0 },
        { onFive .toggle with target := .circuit 384 }, { onFive .toggle with expiry := some 241 },
        { onFive .toggle with expiry := some 0 }, onFive .panic, onFive .stationClear,
        { onFive .latchOn with target := .absent }],
      recordPresent (writeRecord b) = true ∧ readRecord (writeRecord b) = none := by decide +kernel

theorem witness_BindingRecordRoundTrip :
    (onFive .latchOn).present = true ∧ (onFive .latchOn).fits = true ∧
    readRecord (writeRecord (onFive .latchOn)) = some (onFive .latchOn) := by decide +kernel

/-- The house with circuit 5 retired. -/
def retiredFive : State := house.setAttrs 5 { CircuitAttrs.default with retired := true }

/-- The house with circuit 5 an egress circuit. -/
def egressFive : State := house.setAttrs 5 { CircuitAttrs.default with egress := true, floor := 150 }

theorem witness_CircuitWriteReplacesAttributes :
    (383 < (384 : Half).toNat ∧ (383 : Half).toNat ≤ 383) ∧ (1000 < (1001 : Half).toNat ∧ (1000 : Half).toNat ≤ 1000) ∧
    (2 < (3 : Byte).toNat ∧ curveOf (2 : Byte).toNat = some .switched) ∧
    (1 < (2 : Byte).toNat ∧ mergeRuleOf (1 : Byte).toNat = some .ltp) ∧ (1 : Byte) ≠ 0 ∧
    ((retiredFive.attrs 5).retired = true ∧ (house.attrs 5).retired = false) ∧ retiredFive.sweeper.active = false := by
  decide +kernel

theorem witness_RetirementRemovesHolds :
    ((egressFive.attrs 5).egress = true ∧ egressFive.sweeper.active = false) ∧
    ((retiredFive.attrs 5).egress = false ∧ (retiredFive.attrs 5).retired = true) ∧
    ((house.attrs 383).egress = false ∧ (house.attrs 383).retired = false) ∧ (sweeping .first).sweeper.active = true := by
  decide +kernel

theorem witness_RestoreClearsFaults :
    (sweeping .first).sweeper.active = true ∧ retiredFive.sweeper.active = false ∧ 383 < (384 : Half).toNat ∧
    (383 : Half).toNat ≤ 383 := by decide +kernel

/-- The house with circuits in group 63 and in preset 47. -/
def listed (circuits : List Nat) : State :=
  (house.setGroup 63 circuits).setPreset 47 { entries := circuits.map (fun c => (c, 1000)), fade := 10, zone := 2 }

theorem witness_GroupEdits :
    (63 < (64 : Byte).toNat ∧ (63 : Byte).toNat ≤ 63 ∧ 383 < (384 : Half).toNat ∧ (383 : Half).toNat ≤ 383) ∧
    ((listed [383]).sweeper.active = false ∧ (383 : Nat) ∈ (listed [383]).group 63) ∧
    (383 ∉ (listed (List.range 32)).group 63 ∧ 32 ≤ ((listed (List.range 32)).group 63).length) ∧
    (383 ∉ (listed (List.range 31)).group 63 ∧ ((listed (List.range 31)).group 63).length < 32) ∧
    ((listed [5, 383, 6]).group 63 = [5] ++ 383 :: [6] ∧ (383 : Nat) ∉ [5]) := by decide +kernel

theorem witness_PresetEdits :
    (47 < (48 : Byte).toNat ∧ (47 : Byte).toNat ≤ 47) ∧ (1000 < (1001 : Half).toNat ∧ (1000 : Half).toNat ≤ 1000) ∧
    (600 < (601 : Half).toNat ∧ (600 : Half).toNat ≤ 600) ∧ (15 < (16 : Byte).toNat ∧ (15 : Byte).toNat ≤ 15) ∧
    (((listed [5, 383, 6]).preset 47).entries = [(5, 1000)] ++ (383, 1000) :: [(6, 1000)] ∧
      ∀ x ∈ [((5 : Nat), (1000 : Nat))], x.1 ≠ 383) ∧
    ((∀ x ∈ ((listed (List.range 64)).preset 47).entries, x.1 ≠ 383) ∧
      64 ≤ ((listed (List.range 64)).preset 47).entries.length) ∧
    ((∀ x ∈ ((listed (List.range 63)).preset 47).entries, x.1 ≠ 383) ∧
      ((listed (List.range 63)).preset 47).entries.length < 64) := by decide +kernel

theorem witness_ConsolePlacements :
    (∀ k ∈ ([0, 3, 4, 255] : List Byte), k.toNat ≠ 1 ∧ k.toNat ≠ 2) ∧
    ((7 : Byte).toNat ≤ 7 ∧ 7 < (8 : Byte).toNat ∧ 1 ≤ (1 : Byte).toNat ∧ (0 : Byte).toNat = 0) ∧
    ((Target.circuit 383).fits = true ∧ (Target.circuit 384).fits = false ∧ (Target.group 63).fits = true ∧
      (Target.group 64).fits = false) ∧
    (retiredFive.targets (.circuit 5) 1000 = [] ∧ house.targets (.group 63) 1000 = []) ∧
    (house.targets (.circuit 5) 1000 = [(5, 1000)] ∧ 1 ≤ freeRecords house.holds ∧
      (((listed [5, 383]).targets (.group 63) 1000).map Prod.fst).Nodup) ∧
    (full.targets (.circuit 5) 1000 ≠ [] ∧
      freeRecords full.holds < lacking full.holds (.console 7) (full.targets (.circuit 5) 1000)) ∧
    (house.targets (.preset 47) 0 = [] ∧ (listed [5, 383]).targets (.preset 47) 0 ≠ [] ∧
      (((listed [5, 383]).targets (.preset 47) 0).map Prod.fst).Nodup) ∧
    (let s := { listed [5] with holds := [{ held with originator := .preset 47, state := .fading }] }
     s.targets (.preset 47) 0 ≠ [] ∧ ∃ h ∈ s.holds, h.originator = .preset 47 ∧ h.state = .fading) ∧
    (let s := { listed [5, 383] with holds := [{ held with originator := .console 7 }] }
     s.PoolLaw ∧ s.targets (.group 63) 1000 = [(5, 1000)] ++ (383, 1000) :: [] ∧
      s.holds.find? (Hold.isOf 383 (.console 7)) = none ∧
      s.holds.find? (Hold.isOf 5 (.console 7)) = some { held with originator := .console 7 }) ∧
    (let s := { listed [5] with holds := full.holds }
     (∀ h ∈ s.holds, h.originator = .preset 47 → h.state ≠ .fading) ∧
      freeRecords s.holds < lacking s.holds (.preset 47) (s.targets (.preset 47) 0)) := by
  unfold State.PoolLaw
  decide +kernel

theorem witness_ReleasesFadeOut :
    (47 < (48 : Byte).toNat ∧ (47 : Byte).toNat ≤ 47 ∧ 1023 < (1024 : Half).toNat ∧ (1023 : Half).toNat ≤ 1023) ∧
    gives (exec (.releaseOwner 0) { house with holds := [held] }) (fun t => t.holds.map Hold.state == [.fadingOut]) = true := by
  decide +kernel

theorem witness_SetModeFollowsTheTable :
    (3 < (4 : Byte).toNat ∧ (3 : Byte).toNat ≤ 3) ∧ State.reset.mode = .panic ∧
    ((lockedAt 0 .show false).mode = .show ∧ (0 : Byte).toNat = 0) ∧ ((lockedAt 0 .work false).mode = .work ∧ (2 : Byte).toNat = 2) ∧
    (ready.mode ≠ .panic ∧ ready.mode ≠ .work ∧ ready.lock = .free) ∧
    (Mode.openHouse.code = (1 : Byte).toNat ∧ Mode.openHouse = ready.mode) ∧
    (Mode.interval.code = (3 : Byte).toNat ∧ Mode.interval ≠ ready.mode) ∧
    (Mode.show.code = (2 : Byte).toNat ∧ Mode.show ≠ (lockedAt 0 .openHouse true).mode ∧
      (lockedAt 0 .openHouse true).lock ≠ .free) := by decide +kernel

theorem witness_ZoneAndHoldoverWrites :
    (4 < (5 : Byte).toNat ∧ (4 : Byte).toNat ≤ 4 ∧ 15 < (16 : Byte).toNat ∧ (15 : Byte).toNat ≤ 15) ∧
    (Mode.holdover.code = (4 : Byte).toNat ∧ Mode.work.code = (0 : Byte).toNat ∧ Mode.holdover ≠ .panic) ∧
    (zoneMinimumOf (4 : Byte).toNat = some .closed ∧ zoneMinimumOf (0 : Byte).toNat = some (.atLeast 0)) ∧
    1000 < (1001 : Half).toNat ∧ (1000 : Half).toNat ≤ 1000 := by decide

theorem witness_PanicEntryAndExit :
    ready.mode ≠ .panic ∧ State.reset.mode = .panic ∧ State.reset.panicLatch = false ∧
    ({ State.reset with panicLatch := true } : State).panicLatch = true := by decide

theorem witness_LockTakeStartsTheLock :
    (4 : Byte).toNat < 5 ∧ 80 < (81 : Byte).toNat ∧ 5 ≤ (5 : Byte).toNat ∧ (80 : Byte).toNat ≤ 80 ∧ ready.lock = .free ∧
    (lockedAt 0 .openHouse false).lock ≠ .free := by decide

theorem witness_LockRenewal :
    1 < (2 : Byte).toNat ∧ (1 : Byte).toNat ≤ 1 ∧ ready.lock = .free ∧
    (let h : LockHeld := { period := 5, lastToggle := false, since := 0 }
     (lockedAt 0 .show false).lock = .first h ∧ (lockedAt 200 .show true).lock = .windowed h ∧
      ((0 : Byte).toNat = h.lastToggle.toNat ∧ (1 : Byte).toNat ≠ h.lastToggle.toNat) ∧
      (40 * h.period ≤ (lockedAt 200 .show true).clock - h.since ∧ (lockedAt 199 .show true).clock - h.since < 40 * h.period) ∧
      (lockedAt 199 .show true).mode = .show ∧ (lockedAt 199 .interval true).mode ≠ .show) := by decide

theorem witness_LockGiveAndLapse :
    let h : LockHeld := { period := 5, lastToggle := false, since := 0 }
    ((lockedAt 400 .show true).mode = .show ∧ (lockedAt 400 .interval true).mode ≠ .show) ∧
    ((lockedAt 400 .show true).lock = .windowed h ∧ (lockedAt 399 .interval false).lock = .first h) ∧
    (h.since + 80 * h.period ≤ (lockedAt 400 .show true).clock ∧ (lockedAt 399 .show true).clock < h.since + 80 * h.period) ∧
    (0 < h.period ∧ gives (exec (.lockRenew 1) (lockedAt 400 .show true)) (fun t => t.port.result.code == .ok) = true) ∧
    ready.lock = .free := by decide +kernel

theorem witness_RetargetIssues :
    ((sweeping .first).sweeper.active = true ∧ house.sweeper.active = false) ∧
    (383 < (384 : Half).toNat ∧ (383 : Half).toNat ≤ 383 ∧ (5 : Half).toNat = 5 ∧ (5 : Half).toNat ≠ (6 : Half).toNat) ∧
    ((retiredFive.attrs 5).retired = true ∧ (house.attrs 383).retired = false) ∧
    (∀ pos, house.sweeper.state ≠ .aborted ⟨0, 383, pos⟩) ∧
    (∀ pos, (aborted .first).sweeper.state ≠ .aborted ⟨6, 5, pos⟩) ∧
    (aborted ⟨.presets, 47⟩).sweeper.state = .aborted ⟨5, 6, ⟨.presets, 47⟩⟩ := by
  refine ⟨by decide +kernel, by decide, by decide +kernel, fun pos h => ?_, fun pos h => ?_, rfl⟩
  · cases h
  · simp [aborted, job] at h

theorem witness_SweepVisitsAndAbort :
    (∀ p ∈ [⟨.bindings, 0⟩, ⟨.bindings, 1023⟩, ⟨.groups, 63⟩, ⟨.presets, 46⟩, ⟨.presets, 47⟩],
      (sweeping p).sweeper.state = .sweeping (job p)) ∧
    ((job ⟨.bindings, 1023⟩).position.next = some ⟨.groups, 0⟩ ∧ (job ⟨.groups, 63⟩).position.next = some ⟨.presets, 0⟩ ∧
      (job ⟨.presets, 47⟩).position.next = none) ∧
    house.sweeper.active = false ∧ (aborted .first).sweeper.active = false := by decide +kernel

theorem witness_SaveWritesTheStore :
    (let s := { ready with store := .writing ready.config 0 }
     s.store.busy = true ∧ s.store = .writing ready.config 0 ∧ s.powered = true) ∧
    ready.store.busy = false := ⟨⟨rfl, rfl, rfl⟩, rfl⟩

/-- The reading statements ask for power alone; records and lists within them, and beyond the list's end. -/
theorem witness_ReportReads :
    let s := { house with sense := { SenseRecord.cleared with valid := true, ref := .binding 1024, refValid := true }
                          refusal := { RefusalRecord.cleared with valid := true, station := 127, binding := some 1023 } }
    s.powered = true ∧ s.sense.valid = true ∧ gives (exec .readSense s) (fun t => t.sense == SenseRecord.cleared) = true ∧
    gives (exec .readRefusal s) (fun t => t.refusal == RefusalRecord.cleared) = true ∧
    gives (exec .readEvents State.reset) (fun t => !t.events.flags.store && t.events.details.storeOutcome == .invalid) = true ∧
    gives (exec (.eventMask 1 0 1 0 1 0 255) s) (fun t => t.mask.store && !t.mask.press) = true := by decide +kernel
theorem witness_ConfigurationReads :
    house.powered = true ∧ stationUsable (127 : Byte).toNat = true ∧ stationUsable (64 : Byte).toNat = false ∧
    (((listed [5]).group 63)[(0 : Byte).toNat]? = some 5 ∧ ((listed [5]).group 63)[(1 : Byte).toNat]? = none) ∧
    ((listed [5]).preset 47).entries[(0 : Byte).toNat]? = some (5, 1000) := by decide +kernel
theorem witness_CircuitReads :
    house.powered = true ∧ ¬ 383 < (383 : Half).toNat ∧ 383 < (384 : Half).toNat ∧
    (let s := { house with holds := [held] }
     s.powered = true ∧ (s.holds.filter (fun h => h.circuit == 5))[(0 : Half).toNat]? = some held) := by decide +kernel
theorem witness_MinuteTimers : house.powered = true ∧ gives (exec .faultMinuteTimer (house.setCircuit 5
    { CircuitLive.clear with faultCount := 7 })) (fun t => (t.circuit 5).faultCount == 6) = true := by decide +kernel
theorem witness_IdentifyAnswersIdentity : house.powered = true := rfl

theorem witness_RestartKeepsConfiguration :
    (sweeping .first).sweeper.state = .sweeping (job .first) ∧ (aborted .first).sweeper.active = false := ⟨rfl, rfl⟩

/-- What checkPress answers, as the number of the refusal code (R183), or none when the press is accepted. -/
def pressRefused (s : State) (e : PressEntry) : Option Nat :=
  match s.checkPress e with
  | .error r => some r.code.code
  | .ok _ => none

/-- The house with binding 0 replaced. -/
def withBinding (b : Binding) : State := house.setBinding 0 b

theorem witness_RefusedPress :
    (let s := { queued 8 .press with queue := [edgeOf 8 .press, edgeOf 0 .press] }
     s.current = none ∧ s.queue = edgeOf 8 .press :: [edgeOf 0 .press] ∧ (edgeOf 8 .press).edge = .press ∧
      pressRefused s (edgeOf 8 .press) = some 1) ∧
    ((queued 8 .release).queue = edgeOf 8 .release :: [] ∧ (edgeOf 8 .release).edge = .release) ∧
    house.current = none ∧ house.queue = [] := by decide +kernel

theorem witness_PressChecksInOrder :
    ((house.slot 2).enrolled = false ∧ pressRefused house { edgeOf 0 .press with station := 2 } = some 0) ∧
    ((house.slot 1).count ≤ 8 ∧ pressRefused house (edgeOf 8 .press) = some 1 ∧ 7 < (house.slot 1).count) ∧
    (let s := house.setSlot 1 { house.slot 1 with base := 1023 }
     1023 < (s.slot 1).base + 1 ∧ (s.slot 1).base + 0 ≤ 1023 ∧ pressRefused s (edgeOf 1 .press) = some 2 ∧
      (s.binding 1023).present = false ∧ pressRefused s (edgeOf 0 .press) = some 3) ∧
    (let s := withBinding { onFive .latchOn with authority := 3 }
     (s.slot 1).authority < (s.binding 0).authority ∧ pressRefused s (edgeOf 0 .press) = some 4) ∧
    (∀ m ∈ [ZoneMinimum.closed, .atLeast 3],
     let s := { house with config :=
       { house.config with zoneMinimums := house.config.zoneMinimums.set (zoneIndex .openHouse 2) m } }
     s.zoneMinimum (s.pressZone (s.binding 0)) = m ∧ pressRefused s (edgeOf 0 .press) = some 5) ∧
    (let s := house.setLive 1 { house.live 1 with presence := .silent }
     (s.binding 3).kind = .holdToRun ∧ (s.live 1).presence ≠ .online ∧ pressRefused s (edgeOf 3 .press) = some 6 ∧
      (s.binding 0).kind ≠ .holdToRun ∧ pressRefused s (edgeOf 0 .press) = none) ∧
    ((house.binding 6).kind = .stationClear ∧ pressRefused house (edgeOf 6 .press) = none ∧
      (house.binding 7).kind = .panic ∧ pressRefused house (edgeOf 7 .press) = none) ∧
    (retiredFive.targets (.circuit 5) 800 = [] ∧ pressRefused retiredFive (edgeOf 0 .press) = some 7) ∧
    (let s := withBinding { onFive .latchOn with target := .group 63 }
     s.targets (.group 63) 800 = [] ∧ pressRefused s (edgeOf 0 .press) = some 8) ∧
    (let s := { (listed [5]).setBinding 0 { onFive .latchOn with target := .preset 47 } with
       holds := [{ held with originator := .preset 47, state := .fading }] }
     (s.targets (.preset 47) 800 ≠ [] ∧ ∃ h ∈ s.holds, h.originator = .preset 47 ∧ h.state = .fading) ∧
      pressRefused s (edgeOf 0 .press) = some 9) ∧
    (512 - full.holds.length < 1 ∧ pressRefused full (edgeOf 0 .press) = some 10 ∧
      pressRefused full (edgeOf 1 .press) = none) ∧
    (let s := { full with holds := full.holds.tail }
     512 - s.holds.length = 1 ∧ pressRefused s (edgeOf 0 .press) = none) := by decide +kernel

theorem witness_PressPlacesHolds :
    ∀ k ∈ [0, 2, 3],
      (queued k .press).current = none ∧ (queued k .press).queue = edgeOf k .press :: [] ∧
      pressRefused (queued k .press) (edgeOf k .press) = none ∧
      (queued k .press).anyLiveOn (.binding k) ((queued k .press).targets (.circuit 5) 800) = false ∧
      (((queued k .press).targets (.circuit 5) 800).map Prod.fst).Nodup := by decide +kernel

theorem witness_PressReleasesHolds :
    (∀ k ∈ [1, 6, 7], pressRefused (queued k .press) (edgeOf k .press) = none) ∧
    ∀ e ∈ [none, some 1, some 2],
     let s := { queued 2 .press with holds := [{ held with originator := .binding 2, expiry := e }] }
     s.anyLiveOn (.binding 2) (s.targets (.circuit 5) 800) = true ∧ pressRefused s (edgeOf 2 .press) = none ∧
      ((s.targets (.circuit 5) 800).map Prod.fst).Nodup := by decide +kernel

theorem witness_PressStartsRamps :
    ((house.binding 4).kind = .raise ∧ (house.binding 5).kind = .lower ∧ (house.binding 4).target = .circuit 5) ∧
    ∀ k ∈ [4, 5], pressRefused (queued k .press) (edgeOf k .press) = none ∧
      (((queued k .press).targets (.circuit 5) 800).map Prod.fst).Nodup := by decide +kernel

theorem witness_ReleaseEdges :
    (∀ k ∈ [0, 3, 4, 5, 8], (queued k .release).queue = edgeOf k .release :: [] ∧ (edgeOf k .release).edge = .release) ∧
    (∃ r, (queued 8 .release).findBinding (edgeOf 8 .release) = .error r) ∧
    ((queued 3 .release).findBinding (edgeOf 3 .release) = .ok 3 ∧ (house.binding 3).kind = .holdToRun) ∧
    ((queued 4 .release).findBinding (edgeOf 4 .release) = .ok 4 ∧ (house.binding 4).kind = .raise) ∧
    (queued 0 .release).findBinding (edgeOf 0 .release) = .ok 0 ∧ (house.binding 0).kind = .latchOn :=
  ⟨by decide +kernel, ⟨⟨.controlBeyondCount, none⟩, rfl⟩, ⟨rfl, rfl⟩, ⟨rfl, rfl⟩, rfl, rfl⟩

theorem witness_FadeStepAdvancesHolds :
    (held.state = .steady ∧ { held with parked := true }.parked = true) ∧
    (∀ n ∈ [58, 59], ∀ st ∈ [HoldState.fading, .fadingOut],
     let h := { held with state := st, elapsed := n }
     h.parked = false ∧ (h.elapsed + 1 < h.length ↔ n = 58) ∧ (h.length ≤ h.elapsed + 1 ↔ n = 59)) ∧
    (∀ l ∈ [0, 800, 1000],
     let r : Ramp := { direction := .up, start := l, travel := 600, elapsed := 0 }
     let h := { held with state := .ramping, level := l, ramp := some r }
     h.parked = false ∧ h.ramp = some r) ∧
    0 < 2400 ∧ 2400 ≤ 2400 ∧ (0 : Nat) ≤ 1000 := by decide

theorem witness_RackFramesAndMisses :
    (let s := { ready with rackInFlight := some 3 }
     s.rackInFlight = some 3 ∧ (s.rack 3).state ≠ .lost ∧ (s.rack 3).missCount < 7) ∧
    (let s := ({ ready with rackInFlight := some 3 } : State).setRack 3 { Rack.fresh with missCount := 7 }
     (s.rack 3).state ≠ .lost ∧ 7 ≤ (s.rack 3).missCount) ∧
    (let s := ({ ready with rackInFlight := some 0 } : State).setRack 0 { Rack.fresh with state := .lost, missCount := 8 }
     (s.rack 0).state = .lost ∧ s.rackInFlight = some 0) ∧ ready.rackInFlight = none := by decide +kernel

/-- A reply of rack 3 awaited, in whose last frame every code was 255, with a fault count on its last circuit. -/
def awaiting (count : Nat) : State :=
  (({ ready with rackInFlight := some 3 } : State).setRack 3 { Rack.fresh with lastSent := Table.fill 96 255 }).setCircuit 383
    { moving := none, faultCount := count, reported := false }

theorem witness_StatusRepliesCountFaults :
    ((awaiting 6).rackInFlight = some (3 : BitVec 2).toNat ∧
      faultsFit [⟨95, .lampOpen⟩, ⟨0, .overload⟩, ⟨95, .overload⟩, ⟨1, .lampOpen⟩] = true) ∧
    (((awaiting 6).rack 3).lastSent.get 0 95 ≠ 0 ∧ ((awaiting 6).attrs 383).egress = false ∧
      ((awaiting 6).attrs 383).retired = false ∧ 6 ≤ ((awaiting 6).circuit 383).faultCount ∧
      ¬ 6 ≤ ((awaiting 5).circuit 383).faultCount) ∧
    (let s := (awaiting 6).setAttrs 383 { CircuitAttrs.default with egress := true }
     (s.attrs 383).egress = true ∧ (s.circuit 383).faultCount = 6) ∧
    (let entries : List FaultEntry := [⟨1, .lampOpen⟩, ⟨95, .lampOpen⟩, ⟨95, .overload⟩]
     entries = [⟨1, .lampOpen⟩] ++ ⟨95, .lampOpen⟩ :: [⟨95, .overload⟩] ∧ faultsFit entries = true ∧
      (∀ x ∈ ([⟨1, .lampOpen⟩] : List FaultEntry), x.slot ≠ 95) ∧ ∀ x ∈ ([⟨95, .overload⟩] : List FaultEntry),
        ∃ y ∈ ([⟨1, .lampOpen⟩] ++ [⟨95, .lampOpen⟩] : List FaultEntry), y.slot = x.slot) ∧
    ((awaiting 6).rack 3).state ≠ .online ∧
    (((awaiting 6).setRack 3 { Rack.fresh with state := .online }).rack 3).state = .online ∧
    ((2 : BitVec 2).toNat ≠ 3 ∧ faultsFit [⟨96, .lampOpen⟩] = false ∧
      faultsFit (List.replicate 5 ⟨0, .lampOpen⟩) = false) ∧ ready.rackInFlight = none := by decide +kernel

theorem witness_CurvesGiveRackCodes : (1 ≤ 44 ∧ 44 ≤ 44) ∧ (0 : Nat) ≤ 1000 ∧ 1000 ≤ 1000 := by decide

theorem witness_MergeGivesOutputLevel :
    let fadingOut := { held with slot := 1, originator := .binding 1, state := .fadingOut, level := 900 }
    let parked := { held with slot := 2, originator := .binding 2, parked := true, priority := 7 }
    let lower := { held with slot := 3, originator := .binding 3, priority := 2, level := 1000 }
    (∀ h ∈ [fadingOut, parked], h.state = .fadingOut ∨ h.parked = true) ∧
    (held ∈ [lower, held, parked] ∧ held.state ≠ .fadingOut ∧ held.parked = false ∧
      ∀ k ∈ [lower, held, parked], k.state ≠ .fadingOut → k.parked = false →
        k.priority < held.priority ∨ k.priority = held.priority ∧ k.level ≤ held.level) ∧
    ((∀ k ∈ [lower, { held with level := 900 }], k.state ≠ .fadingOut → k.parked = false → k.priority ≤ held.priority) ∧
      ∀ k ∈ [lower, fadingOut], k.state ≠ .fadingOut → k.parked = false → k.priority < held.priority) ∧
    (fadingOut.state = .fadingOut ∧ fadingOut.parked = false) := by decide

theorem witness_MergeGivesOutputLevel_modes :
    ((retiredFive.attrs 5).retired = true ∧ (house.attrs 5).retired = false) ∧ State.reset.mode = .panic ∧
    ((State.reset.attrs 0).panicParticipant = true ∧
      ((State.reset.setAttrs 0 { CircuitAttrs.default with panicParticipant := false }).attrs 0).panicParticipant = false) ∧
    (lockedAt 0 .work false).mode = .work ∧ (lockedAt 0 .holdover false).mode = .holdover ∧ house.mode = .openHouse := by
  decide +kernel

/-- A small house in every clause of the indicators: binding 0 follows its hold, 1 its level, 2 is dark. -/
def shown (holds : List Hold) : State :=
  { ((house.setBinding 1 { onFive .latchOn with indicator := .followLevel }).setBinding 2
      { onFive .toggle with indicator := .dark }) with holds := holds }

theorem witness_IndicatorImages :
    (shown []).image 1 = darkImage ∧
    (shown [held]).image 1 = (darkImage.set 0 .on).set 1 .on ∧
    (shown [{ held with expiry := some 1 }]).image 1 = (darkImage.set 0 .fastFlash).set 1 .on ∧
    (shown [{ held with parked := true }]).image 1 = darkImage.set 0 .slowFlash ∧
    ({ shown [] with mode := .panic } : State).image 1 = (darkImage.set 1 .on).set 7 .on ∧
    ((house.slot 1).enrolled = true ∧ ({ house with holds := [held] } : State).imageInputs 1 ≠ house.imageInputs 1 ∧
      ({ house with holds := [held] } : State).image 1 ≠ (house.live 1).lastImage) ∧
    ((house.slot 2).enrolled = false ∧ house.imageInputs 1 = house.imageInputs 1) ∧
    (let s := house.setLive 1 { house.live 1 with forced := false, lastImage := darkImage }
     s.image 1 = (s.live 1).lastImage ∧ s.imageInFlight 1 = false ∧ (s.live 1).forced = false) ∧
    (house.image 1 = (house.live 1).lastImage ∧ (house.live 1).forced = true) ∧
    (polling.image 1 = (polling.live 1).lastImage ∧ polling.imageInFlight 1 = true) := by decide +kernel

/-- Commands that leave image pending to the recomputation: a console hold; a write that keeps a station enrolled, or enrolls one
that is not HEARD; a restart of the other loop; a miss, and a valid reply for another station. -/
theorem witness_IndicatorImages_pending :
    (¬ house.PendingSetBy (.placeHold 1 1 5 0 0 7) 1 ∧ gives (exec (.placeHold 1 1 5 0 0 7) house) (fun _ => true) = true) ∧
    (¬ house.PendingSetBy (.writeStation 1 1 0 8 2) 1 ∧ ¬ house.PendingSetBy (.writeStation 2 1 0 8 2) 2) ∧
    (¬ house.PendingSetBy (.loopRestart 1) 63 ∧ house.PendingSetBy (.loopRestart 1) 64) ∧
    ¬ polling.PendingSetBy (.stationMiss .a) 1 ∧ ¬ polling.PendingSetBy (.idleReply .a 1) 2 ∧
    polling.PendingSetBy (.idleReply .a 1) 1 := by
  refine ⟨⟨fun h => h, by decide +kernel⟩, ⟨?_, ?_⟩, ⟨?_, ?_⟩, fun h => h, ?_, ?_⟩ <;> unfold State.PendingSetBy <;> decide +kernel

/-! The laws hold in a state at work: a momentary hold of station 1, a sweep in flight, the lock held in SHOW. -/

/-- The state at work. -/
def busy : State :=
  { sweeping .first with
    mode := .show
    lock := .windowed { period := 5, lastToggle := false, since := 0 }
    holds := [{ held with circuit := 6, originator := .binding 3, kind := .momentary }]
    queue := [edgeOf 3 .release]
    pending := [.releaseEdge] }

/-- What holds of every number of a table and beyond it holds of every number. -/
theorem below_and_beyond {P : Nat → Prop} (n : Nat) (below : ∀ i < n, P i) (beyond : ∀ i, n ≤ i → P i) (i : Nat) : P i :=
  (Nat.lt_or_ge i n).elim (below i) (beyond i)

/-- What holds of every record of a table and of its default holds of every number's record. -/
theorem every_record {α : Type} {n : Nat} {t : Table α n} {d : α} {P : α → Prop} (h : ∀ x ∈ t.cells, P x) (hd : P d)
    (i : Nat) : P (t.get d i) := by
  rw [Table.get_eq_getD]
  cases e : t.cells[i]? with
  | none => exact hd
  | some x => exact h x (List.mem_of_getElem? e)

theorem busy_configurations : busy.configurations = [busy.config] := rfl

theorem witness_steps : gives (step busy) (fun t => t.holds.map Hold.state == [.fadingOut]) = true := by decide +kernel

theorem witness_ModeLawsKept :
    (busy.LockLaw ∧ busy.mode = .show) ∧ ({ State.reset with panicLatch := true } : State).PanicLaw :=
  ⟨⟨fun _ => rfl, rfl⟩, fun _ => rfl⟩

theorem busy_lists : busy.ListsLaw := by
  intro g hg
  rw [busy_configurations, List.mem_singleton] at hg
  subst hg
  exact
    ⟨every_record (t := busy.config.groups) (d := []) (P := fun l : List Nat => l.length ≤ 32 ∧ l.Nodup)
      (by decide +kernel) (by decide),
     every_record (t := busy.config.presets) (d := Preset.empty)
      (P := fun v : Preset => v.entries.length ≤ 64 ∧ (v.entries.map Prod.fst).Nodup) (by decide +kernel) (by decide)⟩

theorem busy_circuit (c : Nat) : busy.circuit c = if c = 5 then { CircuitLive.clear with moving := some 6 } else .clear := by
  have h : busy.circuit c = ({ house with sweeper := busy.sweeper }.mark 5 (some 6)).circuit c := rfl
  rw [h, State.mark, State.circuit_setCircuit]
  by_cases e : c = 5
  · subst e
    rfl
  · have : (5 : Nat) ≠ c := fun x => e x.symm
    simp only [this, false_and, if_false, e]
    exact (Table.get_fill (n := 384) _ _ _).trans (ite_self _)

theorem busy_mark : busy.MarkLaw := by
  intro c
  rw [busy_circuit]
  by_cases e : c = 5 <;> simp [e, busy, sweeping, job, State.mark, State.setCircuit, Sweeper.markOn, CircuitLive.clear]

theorem witness_BoundsKept : busy.CurrentLaw ∧ busy.QueueLaw ∧ busy.ListsLaw ∧ busy.ReportsLaw :=
  ⟨rfl, by unfold State.QueueLaw; decide +kernel, busy_lists, fun _ => rfl, fun _ => rfl⟩

theorem witness_CircuitLawsKept : busy.MarkLaw ∧ busy.FaultLaw :=
  ⟨busy_mark, every_record (t := busy.circuits) (d := CircuitLive.clear)
        (P := fun v : CircuitLive => v.faultCount ≤ 7) (by decide +kernel) (by decide)⟩

theorem witness_RetiredLawKept : busy.RetiredLaw := by
  constructor
  · intro g hg
    rw [busy_configurations, List.mem_singleton] at hg
    subst hg
    exact every_record (t := busy.config.circuits) (d := CircuitAttrs.default)
          (P := fun a : CircuitAttrs => a.retired = true → a.egress = false) (by decide +kernel) (by decide)
  · intro c hc
    have : ∀ c, (busy.attrs c).retired = false :=
      every_record (t := busy.config.circuits) (d := CircuitAttrs.default)
            (P := fun a : CircuitAttrs => a.retired = false)
        (by decide +kernel) rfl
    rw [this] at hc
    cases hc

theorem witness_ParkedLawKept : busy.ParkedLaw := by
  intro h hh
  rw [List.mem_singleton.mp hh]
  decide +kernel

theorem witness_PoolLawKept : busy.PoolLaw := by
  unfold State.PoolLaw
  decide +kernel

theorem witness_MomentaryLawKept : busy.MomentaryLaw := by
  constructor
  · exact below_and_beyond 128 (by decide +kernel) (fun n h => by
      rw [State.slot_beyond _ h, State.live_beyond _ h]
      decide)
  · intro h hh _ _
    rw [List.mem_singleton.mp hh]
    exact ⟨1, rfl, by decide +kernel⟩

theorem witness_ImageLawKept : busy.ImageLaw :=
  below_and_beyond 128 (by decide +kernel) (fun n h => by
    rw [State.slot_beyond _ h, State.live_beyond _ h]
    exact rfl)

theorem witness_LevelLawKept : busy.LevelLaw := by
  constructor
  · intro g hg
    rw [busy_configurations, List.mem_singleton] at hg
    subst hg
    refine ⟨?_, ?_, ?_, by decide +kernel⟩
    · exact every_record (t := busy.config.bindings) (d := Binding.empty)
          (P := fun b : Binding => b.level ≤ 1000) (by decide +kernel) (by decide)
    · exact every_record (t := busy.config.presets) (d := Preset.empty)
          (P := fun v : Preset => ∀ x ∈ v.entries, x.2 ≤ 1000) (by decide +kernel) (by decide)
    · exact every_record (t := busy.config.circuits) (d := CircuitAttrs.default)
          (P := fun a : CircuitAttrs => a.floor ≤ 1000) (by decide +kernel) (by decide)
  · intro h hh
    rw [List.mem_singleton.mp hh]
    exact ⟨by decide, by decide, by decide, fun r hr => by cases hr⟩

theorem witness_TargetCircuits :
    (busy.ListsLaw ∧ busy.MarkLaw) ∧ (∀ c, (ready.circuit c).moving = none) ∧
    ∀ c, (busy.circuit c).moving = if c = 5 then some 6 else none :=
  ⟨⟨busy_lists, busy_mark⟩,
   every_record (t := ready.circuits) (d := CircuitLive.clear)
         (P := fun v : CircuitLive => v.moving = none) (by decide +kernel) rfl, busy_mark⟩

end Sys2Proof.Tests
end

section
/-! The curves from output level to rack code (R114 to R117). The bound on the codes and the silence of SQUARE on the levels
1 to 44 both follow from two facts: no curve falls as the level rises, and what it gives at the end of the range. -/
namespace Sys2Proof.Machine

/-! ## The code each curve gives a level -/

theorem curveCode_linear (l : Nat) : curveCode .linear l = (l * 255 + 500) / 1000 := rfl

theorem curveCode_square (l : Nat) : curveCode .square l = (l * l * 255 + 500000) / 1000000 := rfl

theorem curveCode_switched (l : Nat) : curveCode .switched l = if 500 ≤ l then 255 else 0 := rfl

/-! ## What the curves have in common (R114) -/

/-- Full output is code 255 on every curve (R114). -/
theorem curveCode_full (k : Curve) : curveCode k 1000 = 255 := by
  cases k <;> rfl

/-- No curve gives a lower code for a higher level (R114). -/
theorem curveCode_mono (k : Curve) : Monotone (curveCode k) := by
  intro l m hlm
  cases k with
  | linear =>
    rw [curveCode_linear, curveCode_linear]
    gcongr
  | square =>
    rw [curveCode_square, curveCode_square]
    gcongr
  | switched =>
    rw [curveCode_switched, curveCode_switched]
    split <;> split <;> omega

/-- Every rack code of a level up to 1000 lies within 0–255 (R114). -/
theorem curveCode_le_255 (k : Curve) {l : Nat} (hl : l ≤ 1000) : curveCode k l ≤ 255 :=
  calc curveCode k l ≤ curveCode k 1000 := curveCode_mono k hl
    _ = 255 := curveCode_full k

/-- A low level on a SQUARE circuit sends code 0 (R116). -/
theorem curveCode_square_eq_zero {l : Nat} (hl : l ≤ 44) : curveCode .square l = 0 := by
  have at44 : curveCode .square 44 = 0 := rfl
  exact Nat.le_zero.mp (at44 ▸ curveCode_mono .square hl)

/-- Settles O47: the formulas are the curves' equations, the worked values evaluate, and the bounds are monotonicity
with the code of full output. -/
theorem curvesGiveRackCodes : Obligations.CurvesGiveRackCodes := by
  unfold Obligations.CurvesGiveRackCodes
  refine ⟨curveCode_linear, ?linearValues, curveCode_square, ?squareValues, curveCode_switched, ?bounds⟩
  case linearValues => decide
  case squareValues => exact ⟨rfl, rfl, rfl, rfl, curveCode_full .square, fun l _ hl => curveCode_square_eq_zero hl⟩
  case bounds => exact fun k l m hlm hm => ⟨curveCode_mono k hlm, curveCode_le_255 k hm⟩

end Sys2Proof.Machine
end

section
/-! LOCK_TAKE (R148). A refusal reports the state as the frame left it, and shifting the frame changes the port alone, so the
check of the lock and the period start both read the state before the command. -/
namespace Sys2Proof.Machine

/-- The show lock is held in FIRST and in WINDOWED alone (R147). -/
theorem ShowLock.isHeld_iff (l : ShowLock) : l.isHeld = true ↔ l ≠ .free := by
  cases l <;> simp [ShowLock.isHeld]

/-- A host command that refuses on the state its frame left changes nothing but the reports (R182, R184). -/
theorem Reply.delivered_refuse_shiftFrame (s : State) (command : Byte) (result : ResultCode) (ref : SenseRef)
    (fields : List (Nat × Nat)) :
    (Reply.refuse (s.shiftFrame 96) command result ref fields).delivered = s.refusedWith command result ref fields :=
  Reply.delivered_refuse _ _ _ _ _

/-- What an accepted LOCK_TAKE with period `p` leaves: FIRST and the period are reported, and the lock becomes FIRST, its last
toggle 0 and its period starting now (R148). -/
def State.lockTaken (s : State) (p : Nat) : State :=
  { s.reported [(2, 1), (7, p)] with lock := .first { period := p, lastToggle := false, since := s.clock } }

theorem Reply.delivered_lockTaken (s : State) (p : Nat) :
    (Reply.ok { s.shiftFrame 96 with
        lock := .first { period := p, lastToggle := false, since := (s.shiftFrame 96).clock } } [(2, 1), (7, p)]).delivered =
      s.lockTaken p := rfl

/-- What LOCK_TAKE leaves of a part with power, its checks in their order (R148). -/
theorem exec_lockTake {s : State} (hp : s.powered = true) (period : Byte) :
    exec (.lockTake period) s = .next (
      if period.toNat < 5 ∨ 80 < period.toNat then s.refusedWith 0x33 .badParameter .none []
      else if s.lock.isHeld then s.refusedWith 0x33 .lockState .none []
      else s.lockTaken period.toNat) := by
  have lockAfterFrame : (s.shiftFrame 96).lock = s.lock := rfl
  rw [exec, execLockTake, hostCommand_on hp, lockAfterFrame, apply_ite Reply.delivered, apply_ite Reply.delivered,
    Reply.delivered_refuse_shiftFrame, Reply.delivered_refuse_shiftFrame, Reply.delivered_lockTaken]

/-- Settles O29: each clause is one branch of what LOCK_TAKE leaves. -/
theorem lockTakeStartsTheLock : Obligations.LockTakeStartsTheLock := by
  unfold Obligations.LockTakeStartsTheLock
  intro s period hp
  rw [exec_lockTake hp]
  refine ⟨?badPeriod, ?alreadyHeld, ?taken⟩
  case badPeriod =>
    intro hbad
    rw [if_pos hbad]
  case alreadyHeld =>
    intro hlow hhigh hheld
    rw [if_neg (by omega), if_pos ((ShowLock.isHeld_iff _).mpr hheld)]
  case taken =>
    intro hlow hhigh hfree
    rw [if_neg (by omega), if_neg (fun hheld => (ShowLock.isHeld_iff _).mp hheld hfree), State.lockTaken]

end Sys2Proof.Machine
end

section
/-! IDENTIFY (R190). Fields of eight bits are packed with no gaps, so the data bytes of a result packed from bytes are those
bytes again; the answer is then the identity bytes, whatever the state. -/
namespace Sys2Proof.Machine

/-! ## Bytes packed into a result (R183) -/

/-- Packed as fields of eight bits, bytes give the number they write, lowest first. -/
theorem packNat_bytes (bs : List Byte) : packNat (bs.map fun b => (8, b.toNat)) = leNat bs := by
  induction bs with
  | nil => rfl
  | cons b bs ih =>
    have hb : b.toNat % 2 ^ 8 = b.toNat := Nat.mod_eq_of_lt b.isLt
    rw [List.map_cons, packNat, leNat, ih, hb]
    rfl

theorem leNat_lt (bs : List Byte) : leNat bs < 256 ^ bs.length := by
  induction bs with
  | nil => exact Nat.one_pos
  | cons b bs ih =>
    have hb := b.isLt
    rw [leNat, List.length_cons, Nat.pow_succ]
    omega

/-- Division by 256 for each place reads a number's bytes back. -/
theorem bytes_leNat (bs : List Byte) :
    ((List.range bs.length).map fun k => BitVec.ofNat 8 (leNat bs / 2 ^ (8 * k))) = bs := by
  induction bs with
  | nil => rfl
  | cons b bs ih =>
    have hb := b.isLt
    have first : BitVec.ofNat 8 (leNat (b :: bs) / 2 ^ (8 * 0)) = b := by
      apply BitVec.eq_of_toNat_eq
      rw [leNat, BitVec.toNat_ofNat]
      omega
    have later (k : Nat) : leNat (b :: bs) / 2 ^ (8 * (k + 1)) = leNat bs / 2 ^ (8 * k) := by
      have tail : leNat (b :: bs) / 2 ^ 8 = leNat bs := by
        rw [leNat]
        omega
      rw [Nat.mul_succ, Nat.add_comm, Nat.pow_add, ← Nat.div_div_eq_div_mul, tail]
    rw [List.length_cons, List.range_succ_eq_map, List.map_cons, List.map_map, first]
    simp only [Function.comp_def, Nat.succ_eq_add_one, later, ih]

/-- Up to ten bytes fit the result, and its data bytes are those bytes (R182, R183). -/
theorem dataBytes_packData_bytes {bs : List Byte} (hlen : bs.length ≤ 10) :
    ((List.range bs.length).map fun k =>
      BitVec.ofNat 8 ((packData (bs.map fun b => (8, b.toNat))).toNat / 2 ^ (8 * k))) = bs := by
  have fits : leNat bs < 2 ^ 80 :=
    calc leNat bs < 256 ^ bs.length := leNat_lt bs
      _ ≤ 256 ^ 10 := Nat.pow_le_pow_right (by decide) hlen
      _ = 2 ^ 80 := by decide
  have value : (packData (bs.map fun b => (8, b.toNat))).toNat = leNat bs := by
    rw [packData, packNat_bytes, BitVec.toNat_ofNat, Nat.mod_eq_of_lt fits]
  rw [value]
  exact bytes_leNat bs

/-! ## The answer (R190) -/

/-- The identity bytes give the vendor, the part and the revision, the capacities and the station count (R190). -/
theorem identityBytes_eq :
    identityBytes = [0x54, 0x38, 1] ++ leBytes 2 384 ++ leBytes 2 1024 ++ leBytes 2 512 ++ [126] := rfl

/-- A part with power accepts IDENTIFY and only reports (R190). -/
theorem exec_identify {s : State} (hp : s.powered = true) :
    exec .identify s = .next (s.reported (identityBytes.map fun b => (8, b.toNat))) := by
  rw [exec, execIdentify, hostCommand_on hp, Reply.delivered_ok, State.reported]

/-- A report changes the port alone (R182). -/
theorem State.reported_eq (s : State) (fields : List (Nat × Nat)) :
    s.reported fields = { s with port := (s.reported fields).port } := rfl

theorem State.reported_result (s : State) (fields : List (Nat × Nat)) :
    (s.reported fields).port.result = ⟨.ok, packData fields⟩ := rfl

/-- Settles O6: IDENTIFY reports the identity bytes, a report changes the port alone, and the data bytes are the bytes
packed. -/
theorem identifyAnswersIdentity : Obligations.IdentifyAnswersIdentity := by
  unfold Obligations.IdentifyAnswersIdentity
  intro s hp
  refine ⟨_, exec_identify hp, ?ok, ?bytes, State.reported_eq s _⟩
  case ok => rw [State.reported_result]
  case bytes =>
    have ten : identityBytes.length = 10 := rfl
    rw [State.reported_result, ← identityBytes_eq]
    exact dataBytes_packData_bytes ten.le

end Sys2Proof.Machine
end

section
/-! What each action changes, and a shorter account of `Keeps` for the laws that read only a few parts of the state: an action
that changes none of the parts a law reads keeps it, so the law's proof speaks of the other actions alone. -/
namespace Sys2Proof.Machine

/-! ## The parts of the state that the laws read -/

/-- A part of the state that some law reads. -/
inductive Part where
  | slots | bindings | groups | presets | attrs | zones | holdover | store | presences | queue | current | holds | circuits
  | sweep | mode | lock | panicLatch | sense | refusal
  deriving DecidableEq

/-- A part is the same in two states: of the live stations their presences are read, of the sweeper the mark it asks for. -/
def Part.Same : Part → State → State → Prop
  | .slots, s, t => t.config.stations = s.config.stations
  | .bindings, s, t => t.config.bindings = s.config.bindings
  | .groups, s, t => t.config.groups = s.config.groups
  | .presets, s, t => t.config.presets = s.config.presets
  | .attrs, s, t => t.config.circuits = s.config.circuits
  | .zones, s, t => t.config.zoneMinimums = s.config.zoneMinimums
  | .holdover, s, t => t.config.holdoverLevel = s.config.holdoverLevel
  | .store, s, t => t.store = s.store
  | .presences, s, t => (fun n => (t.live n).presence) = fun n => (s.live n).presence
  | .queue, s, t => t.queue = s.queue
  | .current, s, t => t.current = s.current
  | .holds, s, t => t.holds = s.holds
  | .circuits, s, t => t.circuits = s.circuits
  | .sweep, s, t => t.sweeper.markOn = s.sweeper.markOn
  | .mode, s, t => t.mode = s.mode
  | .lock, s, t => t.lock = s.lock
  | .panicLatch, s, t => t.panicLatch = s.panicLatch
  | .sense, s, t => t.sense = s.sense
  | .refusal, s, t => t.refusal = s.refusal

theorem Part.Same.trans {p : Part} {s t u : State} (h : p.Same s t) (k : p.Same t u) : p.Same s u := by
  cases p <;> exact Eq.trans k h

/-- Outside the parts named, the two states are the same to the laws. -/
def Frame (changed : List Part) (s t : State) : Prop := ∀ p, p ∉ changed → p.Same s t

namespace Frame

variable {s t u : State} {changed more : List Part}

theorem trans (h : Frame changed s t) (k : Frame more t u) : Frame (changed ++ more) s u := by
  intro p hp
  rw [List.mem_append, not_or] at hp
  exact (h p hp.1).trans (k p hp.2)

theorem mono (h : Frame changed s t) (sub : changed ⊆ more) : Frame more s t := fun p hp => h p (fun hc => hp (sub hc))

theorem presence_recomputeImages (before after : State) (n : Nat) :
    ((before.recomputeImages after).live n).presence = (after.live n).presence := by
  rw [State.recomputeImages_sameButPending before after n]

/-- No law but that of the images reads image pending. -/
theorem recomputed (before : State) (h : Frame changed s t) : Frame changed s (before.recomputeImages t) := by
  have again : Frame [] t (before.recomputeImages t) := by
    intro p _
    cases p with
    | presences => exact funext (presence_recomputeImages before t)
    | _ => rfl
  exact (h.trans again).mono (by simp)

/-- Writing the live half of a station with its presence kept. -/
theorem setLive (n : Nat) (v : StationLive) (h : v.presence = (s.live n).presence) : Frame [] s (s.setLive n v) := by
  intro p _
  cases p with
  | presences =>
    funext m
    simp only [State.live_setLive]
    split
    · rename_i hm
      rw [h, hm.1]
    · rfl
  | _ => rfl

theorem setLoop (loop : Loop) (v : LoopState) : Frame [] s (s.setLoop loop v) := by
  intro p _
  rw [State.setLoop_frame]
  cases p <;> rfl

theorem setHolds (pool : List Hold) : Frame [.holds] s (s.setHolds pool) := by
  intro p hp
  cases p with
  | holds => simp at hp
  | _ => rfl

/-- An edit discards an ABORTED continuation, and no mark stands for one (R176). -/
theorem markOn_afterEdit (w : Sweeper) : w.afterEdit.markOn = w.markOn := by
  obtain ⟨state, changed⟩ := w
  cases state <;> rfl

theorem discard (h : Frame changed s t) : Frame changed s t.discardContinuation := by
  have discarded : Frame [] t t.discardContinuation := by
    intro p _
    rw [State.discardContinuation_frame]
    cases p with
    | sweep => exact markOn_afterEdit t.sweeper
    | _ => rfl
  exact (h.trans discarded).mono (by simp)

end Frame

/-! ## What pools come to -/

/-- A release, a fade step, a minute, a ramp stop or a parking pass goes on with the same hold: nobody else's, live only if it
was, and with its levels in range where they were. -/
structure Hold.Continues (h k : Hold) : Prop where
  slot : k.slot = h.slot
  circuit : k.circuit = h.circuit
  originator : k.originator = h.originator
  zone : k.zone = h.zone
  kind : k.kind = h.kind
  lastStation : k.lastStation = h.lastStation
  live : k.isLive = true → h.isLive = true
  levels : h.LevelsFit → k.LevelsFit

/-- The hold goes on, as parked as it was. -/
structure Hold.Remains (h k : Hold) : Prop extends Hold.Continues h k where
  parked : k.parked = h.parked

theorem Hold.Continues.refl (h : Hold) : h.Continues h := ⟨rfl, rfl, rfl, rfl, rfl, rfl, id, id⟩

theorem Hold.Remains.refl (h : Hold) : h.Remains h := ⟨.refl h, rfl⟩

theorem Hold.Continues.trans {h k l : Hold} (a : h.Continues k) (b : k.Continues l) : h.Continues l :=
  ⟨b.slot.trans a.slot, b.circuit.trans a.circuit, b.originator.trans a.originator, b.zone.trans a.zone, b.kind.trans a.kind,
    b.lastStation.trans a.lastStation, fun live => a.live (b.live live), fun fit => b.levels (a.levels fit)⟩

/-- Some holds of a pool are gone and the others are in relation `R` to what they were, in the same order. -/
def Thinned (R : Hold → Hold → Prop) (pool after : List Hold) : Prop :=
  ∃ f : Hold → Option Hold, after = pool.filterMap f ∧ ∀ h ∈ pool, ∀ k, f h = some k → R h k

theorem Thinned.mem {R : Hold → Hold → Prop} {pool after : List Hold} (th : Thinned R pool after) {k : Hold} (hk : k ∈ after) :
    ∃ h ∈ pool, R h k := by
  obtain ⟨f, rfl, hf⟩ := th
  obtain ⟨h, hh, hfh⟩ := List.mem_filterMap.mp hk
  exact ⟨h, hh, hf h hh k hfh⟩

theorem Thinned.mono {R S : Hold → Hold → Prop} {pool after : List Hold} (sub : ∀ h k, R h k → S h k)
    (th : Thinned R pool after) : Thinned S pool after := by
  obtain ⟨f, hf, hR⟩ := th
  exact ⟨f, hf, fun h hh k hk => sub h k (hR h hh k hk)⟩

theorem Thinned.filterMap {R : Hold → Hold → Prop} {f : Hold → Option Hold} (pool : List Hold)
    (hf : ∀ h k, f h = some k → R h k) : Thinned R pool (pool.filterMap f) := ⟨f, rfl, fun h _ k hk => hf h k hk⟩

theorem Thinned.map {R : Hold → Hold → Prop} {f : Hold → Hold} (pool : List Hold) (hf : ∀ h, R h (f h)) :
    Thinned R pool (pool.map f) := by
  refine ⟨fun h => some (f h), by simp, fun h _ k hk => ?_⟩
  cases hk
  exact hf h

theorem Thinned.filter (keep : Hold → Bool) (pool : List Hold) : Thinned Hold.Remains pool (pool.filter keep) := by
  refine ⟨fun h => if keep h then some h else none, ?_, fun h _ k hk => ?_⟩
  · rw [← List.filterMap_eq_filter]
    rfl
  · obtain ⟨_, hk⟩ := Option.ite_none_right_eq_some.mp hk
    cases hk
    exact .refl h

/-- A hold released fades out, or is gone (R77). -/
theorem Hold.released_remains {h k : Hold} (hk : h.released = some k) : h.Remains k ∧ k.isLive = false := by
  unfold Hold.released at hk
  split at hk
  · cases hk
  · cases hk
    refine ⟨⟨⟨rfl, rfl, rfl, rfl, rfl, rfl, fun live => by simp [Hold.isLive] at live, fun fit => ?_⟩, rfl⟩, rfl⟩
    exact ⟨fit.1, fit.1, Nat.zero_le _, fun r hr => by simp at hr⟩

theorem releaseWhere_thinned (p : Hold → Bool) (pool : List Hold) : Thinned Hold.Remains pool (releaseWhere p pool) := by
  refine Thinned.filterMap pool fun h k hk => ?_
  split at hk
  · exact (Hold.released_remains hk).1
  · cases hk
    exact .refl h

/-- No live hold is left of those that a release selects (R77). -/
theorem not_selected_of_mem_releaseWhere {p : Hold → Bool} {pool : List Hold} {k : Hold} (hk : k ∈ releaseWhere p pool) (live : k.isLive = true) : p k = false := by
  obtain ⟨h, _, hf⟩ := List.mem_filterMap.mp hk
  split at hf
  · have dead := (Hold.released_remains hf).2
    rw [live] at dead
    cases dead
  · rename_i hsel
    cases hf
    simpa [live] using hsel

/-! ## Fades (R76) -/

theorem fadeLevel_rising {start target : Nat} (h : start ≤ target) (length t : Nat) :
    fadeLevel start target length t = start + (target - start) * t / length := by
  have way : ((target : Int) - start) * t = (((target - start) * t : Nat) : Int) := by
    rw [Nat.cast_mul, Nat.cast_sub h]
  rw [fadeLevel, way, ← Int.ofNat_tdiv, ← Nat.cast_add, Int.toNat_natCast]

theorem fadeLevel_falling {start target : Nat} (h : target ≤ start) (length t : Nat) :
    fadeLevel start target length t = start - (start - target) * t / length := by
  have way : ((target : Int) - start) * t = -(((start - target) * t : Nat) : Int) := by
    rw [Nat.cast_mul, Nat.cast_sub h]
    ring
  rw [fadeLevel, way, Int.neg_tdiv, ← Int.ofNat_tdiv]
  generalize (start - target) * t / length = gone
  omega

/-- Of a whole way, the part gone after `t` steps of `length` is no more than the whole. -/
theorem way_le {way length t : Nat} (ht : t ≤ length) : way * t / length ≤ way :=
  Nat.div_le_of_le_mul (by rw [Nat.mul_comm length]; exact Nat.mul_le_mul_left way ht)

/-- A fade stands between its ends. -/
theorem fadeLevel_between (start target : Nat) {length t : Nat} (ht : t ≤ length) :
    min start target ≤ fadeLevel start target length t ∧ fadeLevel start target length t ≤ max start target := by
  rcases Nat.le_total start target with h | h
  · have := way_le (way := target - start) ht
    rw [fadeLevel_rising h]
    generalize (target - start) * t / length = gone at *
    omega
  · have := way_le (way := start - target) ht
    rw [fadeLevel_falling h]
    generalize (start - target) * t / length = gone at *
    omega

/-! ## What a hold comes to in a fade step, a minute, a ramp stop and a parking pass -/

/-- A ramp stays within the range of levels (R81). -/
theorem Ramp.advance_le (r : Ramp) {level : Nat} (hs : r.start ≤ 1000) (hl : level ≤ 1000) :
    (r.advance level).1.start ≤ 1000 ∧ (r.advance level).2 ≤ 1000 := by
  unfold Ramp.advance
  generalize 1000 * (r.elapsed + 1) / (4 * r.travel) = way
  split <;> split <;> simp only [] <;> omega

theorem Hold.stepped_remains {h k : Hold} (hk : h.stepped = some k) : h.Remains k := by
  unfold Hold.stepped at hk
  split at hk
  · cases hk
    exact .refl h
  split at hk
  case h_1 =>
    cases hk
    exact .refl h
  case h_2 hfading =>
    have live : h.isLive = true := by simp [Hold.isLive, hfading]
    split at hk <;> cases hk
    · exact ⟨⟨rfl, rfl, rfl, rfl, rfl, rfl, fun _ => live, fun fit => ⟨fit.2.2.1, fit.2⟩⟩, rfl⟩
    · rename_i hlen
      refine ⟨⟨rfl, rfl, rfl, rfl, rfl, rfl, fun _ => live, fun fit => ⟨?_, fit.2⟩⟩, rfl⟩
      have := (fadeLevel_between h.start h.target (length := h.length) (t := h.elapsed + 1) (by omega)).2
      have := fit.2.1
      have := fit.2.2.1
      simp only []
      omega
  case h_3 hfading =>
    split at hk <;> cases hk
    rename_i hlen
    refine ⟨⟨rfl, rfl, rfl, rfl, rfl, rfl, id, fun fit => ⟨?_, fit.2⟩⟩, rfl⟩
    have := (fadeLevel_between h.start h.target (length := h.length) (t := h.elapsed + 1) (by omega)).2
    have := fit.2.1
    have := fit.2.2.1
    simp only []
    omega
  case h_4 hramping =>
    split at hk <;> cases hk
    · rename_i r hr
      refine ⟨⟨rfl, rfl, rfl, rfl, rfl, rfl, id, fun fit => ?_⟩, rfl⟩
      obtain ⟨hl, hs, ht, hramp⟩ := fit
      have advanced := r.advance_le (hramp r hr) hl
      exact ⟨advanced.2, hs, ht, fun q hq => by cases hq; exact advanced.1⟩
    · exact .refl h

theorem Hold.minuted_remains {h k : Hold} (hk : h.minuted = some k) : h.Remains k := by
  unfold Hold.minuted at hk
  split at hk
  · cases hk
    exact .refl h
  split at hk
  · cases hk
    exact .refl h
  have fresh (e : Option Nat) : h.Remains { h with expiry := e } := ⟨⟨rfl, rfl, rfl, rfl, rfl, rfl, id, id⟩, rfl⟩
  split at hk
  · have released := (Hold.released_remains hk).1
    exact ⟨(fresh none).toContinues.trans released.toContinues, released.parked⟩
  · cases hk
    exact fresh _

theorem Hold.stopped_remains (h : Hold) : h.Remains h.stopped := by
  unfold Hold.stopped
  split
  · rename_i hramping
    exact ⟨⟨rfl, rfl, rfl, rfl, rfl, rfl, fun _ => by simp [Hold.isLive, hramping],
      fun fit => ⟨fit.1, fit.1, fit.1, fun r hr => by simp at hr⟩⟩, rfl⟩
  · exact .refl h

theorem parkingPass_thinned (s : State) : Thinned Hold.Continues s.holds s.parkingPass.holds :=
  Thinned.map s.holds fun _ => ⟨rfl, rfl, rfl, rfl, rfl, rfl, id, id⟩

/-! ## Touches (R70, R72, R73, R80) -/

/-- What a touch makes of the hold it finds or creates: the originator's on the same circuit, with the values the request supplies. -/
structure Placement.Gives (rq : Placement) (f : Hold → Hold) : Prop where
  slot : ∀ h, (f h).slot = h.slot
  circuit : ∀ h, (f h).circuit = h.circuit
  originator : ∀ h, (f h).originator = h.originator
  zone : ∀ h, (f h).zone = rq.zone
  parked : ∀ h, (f h).parked = rq.parked
  lastStation : ∀ h, (f h).lastStation = rq.lastStation

theorem Placement.gives_placed (rq : Placement) (target : Nat) : rq.Gives fun h => h.placed rq target :=
  ⟨fun _ => rfl, fun _ => rfl, fun _ => rfl, fun _ => rfl, fun _ => rfl, fun _ => rfl⟩

theorem Placement.gives_ramped (rq : Placement) (direction : RampDirection) : rq.Gives fun h => h.ramped rq direction :=
  ⟨fun _ => rfl, fun _ => rfl, fun _ => rfl, fun _ => rfl, fun _ => rfl, fun _ => rfl⟩

theorem Hold.placed_levels {h : Hold} (rq : Placement) {target : Nat} (ht : target ≤ 1000) (fit : h.LevelsFit) :
    (h.placed rq target).LevelsFit := by
  refine ⟨?_, fit.1, ht, fun r hr => by simp [Hold.placed] at hr⟩
  simp only [Hold.placed]
  split
  · exact ht
  · exact fit.1

theorem Hold.ramped_levels {h : Hold} (rq : Placement) (direction : RampDirection) (fit : h.LevelsFit) :
    (h.ramped rq direction).LevelsFit :=
  ⟨fit.1, fit.2.1, fit.2.2.1, fun r hr => by cases hr; exact fit.1⟩

/-- A touch leaves the other holds of the pool, and the one touched, found there or created in a free slot; in a full pool that
has no such hold it does nothing. -/
theorem touchOn_cases (rq : Placement) (rule : MergeRule) (f : Hold → Hold) (pool : List Hold) (c : Nat) :
    (∃ h ∈ pool, h.circuit = c ∧ h.originator = rq.originator ∧ pool.find? (Hold.isOf c rq.originator) = some h ∧
      touchOn rq rule f pool c = pool.filter (fun x => !Hold.isOf c rq.originator x) ++ [f h]) ∨
    (∃ slot, lowestFree pool = some slot ∧ touchOn rq rule f pool c =
      pool.filter (fun x => !Hold.isOf c rq.originator x) ++
        [f (Hold.blank slot c rq (mergedOf rule (contributions pool c)))]) ∨
    touchOn rq rule f pool c = pool := by
  cases hf : pool.find? (Hold.isOf c rq.originator) with
  | some h =>
    have found := isOf_iff.mp (List.find?_some hf)
    exact Or.inl ⟨h, List.mem_of_find?_eq_some hf, found.1, found.2, rfl, touchOn_some hf⟩
  | none =>
    cases hs : lowestFree pool with
    | some slot => exact Or.inr (Or.inl ⟨slot, rfl, touchOn_none hf hs⟩)
    | none => exact Or.inr (Or.inr (by simp only [touchOn, hf, hs]))

end Sys2Proof.Machine
end

section
namespace Sys2Proof.Machine

/-! ## Lists (6.1, 6.2, R172) -/

/-- A list within its bound that names no circuit twice (R118, R122). -/
def ListFits (bound : Nat) (l : List Nat) : Prop := l.length ≤ bound ∧ l.Nodup

/-- Every level among the entries is in range. -/
def EntryLevels (l : List (Nat × Nat)) : Prop := ∀ x ∈ l, x.2 ≤ 1000

theorem ListFits.sublist {bound : Nat} {l m : List Nat} (fit : ListFits bound l) (sub : List.Sublist m l) : ListFits bound m :=
  ⟨sub.length_le.trans fit.1, fit.2.sublist sub⟩

theorem ListFits.append {bound : Nat} {l : List Nat} {c : Nat} (fit : ListFits bound l) (new : c ∉ l) (room : l.length < bound) :
    ListFits bound (l ++ [c]) := by
  refine ⟨by simp; omega, fit.2.append (List.nodup_singleton c) ?_⟩
  simpa using new

/-- In a list without the new circuit the old one is replaced; no other item is renamed (R172). -/
theorem ListFits.replace {bound : Nat} {l : List Nat} {old new : Nat} (fit : ListFits bound l) (absent : new ∉ l) :
    ListFits bound (l.map fun c => if c = old then new else c) := by
  refine ⟨by simpa using fit.1, fit.2.map_on ?_⟩
  intro x hx y hy hxy
  split at hxy <;> split at hxy
  · rename_i hxo hyo
    exact hxo.trans hyo.symm
  · exact absurd (hxy ▸ hy) absent
  · exact absurd (hxy ▸ hx) absent
  · exact hxy

theorem positionOf_some {α : Type} {p : α → Bool} {l : List α} {k : Nat} (h : positionOf p l = some k) :
    ∃ before x after, l = before ++ x :: after ∧ before.length = k ∧ p x = true ∧ ∀ y ∈ before, p y = false := by
  induction l generalizing k with
  | nil => cases h
  | cons y ys ih =>
    rw [positionOf] at h
    split at h
    · rename_i hy
      cases h
      exact ⟨[], y, ys, rfl, rfl, hy, by simp⟩
    · rename_i hy
      obtain ⟨j, hj, rfl⟩ := Option.map_eq_some_iff.mp h
      obtain ⟨before, x, after, rfl, rfl, hx, hb⟩ := ih hj
      exact ⟨y :: before, x, after, rfl, rfl, hx, by simpa [hy] using hb⟩

theorem positionOf_eq_none {α : Type} {p : α → Bool} {l : List α} : positionOf p l = none ↔ ∀ x ∈ l, p x = false := by
  induction l with
  | nil => simp [positionOf]
  | cons y ys ih =>
    rw [positionOf]
    split
    · rename_i hy
      simp [hy]
    · rename_i hy
      simp [ih, hy]

/-- The first item found is the one named. -/
theorem positionOf_append_cons {α : Type} {p : α → Bool} {before after : List α} {x : α} (hb : ∀ y ∈ before, p y = false)
    (hx : p x = true) : positionOf p (before ++ x :: after) = some before.length := by
  induction before with
  | nil => simp [positionOf, hx]
  | cons y ys ih =>
    rw [List.forall_mem_cons] at hb
    simp [positionOf, hb.1, ih hb.2]

theorem visitedGroup_fits {l : List Nat} {old new : Nat} (fit : ListFits 32 l) : ListFits 32 (visitedGroup l old new) := by
  unfold visitedGroup
  split
  · exact fit.sublist List.filter_sublist
  · rename_i absent
    exact fit.replace (by simpa using absent)

theorem visitedEntries_fits {l : List (Nat × Nat)} {old new : Nat} (fit : ListFits 64 (l.map Prod.fst)) :
    ListFits 64 ((visitedEntries l old new).map Prod.fst) := by
  unfold visitedEntries
  split
  · exact fit.sublist (List.filter_sublist.map _)
  · rename_i absent
    have names : (l.map fun x => if x.1 = old then (new, x.2) else x).map Prod.fst =
        (l.map Prod.fst).map fun c => if c = old then new else c := by
      rw [List.map_map, List.map_map]
      refine List.map_congr_left fun x _ => ?_
      simp only [Function.comp_apply]
      split <;> rfl
    rw [names]
    refine fit.replace fun hm => absent ?_
    obtain ⟨x, hx, hxn⟩ := List.mem_map.mp hm
    exact List.any_eq_true.mpr ⟨x, hx, by simpa using hxn⟩

theorem visitedEntries_levels {l : List (Nat × Nat)} {old new : Nat} (fit : EntryLevels l) :
    EntryLevels (visitedEntries l old new) := by
  unfold visitedEntries
  split
  · exact fun x hx => fit x (List.mem_filter.mp hx).1
  · intro x hx
    obtain ⟨y, hy, rfl⟩ := List.mem_map.mp hx
    split
    · exact fit y hy
    · exact fit y hy

/-! ## Target circuits (R48) -/

/-- A target circuit is in service, and has the level of an item listed. -/
theorem mem_targets {s : State} {target : Target} {level : Nat} {x : Nat × Nat} (hx : x ∈ s.targets target level) :
    (s.attrs x.1).retired = false ∧ ∃ y ∈ s.listed target level, y.2 = x.2 := by
  obtain ⟨hmapped, hservice⟩ := List.mem_filter.mp hx
  refine ⟨by simpa using hservice, ?_⟩
  obtain ⟨y, hy, hxy⟩ := List.mem_filterMap.mp hmapped
  refine ⟨y, hy, ?_⟩
  unfold State.mapOne at hxy
  split at hxy
  · cases hxy
    rfl
  · split at hxy
    · cases hxy
    · cases hxy
      rfl

theorem targets_levels {s : State} (fit : s.config.LevelsFit) {target : Target} {level : Nat}
    (hl : level ≤ 1000 ∨ ∃ i, level = (s.binding i).level) {x : Nat × Nat} (hx : x ∈ s.targets target level) : x.2 ≤ 1000 := by
  have supplied : level ≤ 1000 := by
    rcases hl with hl | ⟨i, rfl⟩
    · exact hl
    · exact fit.1 i
  obtain ⟨_, y, hy, hyx⟩ := mem_targets hx
  rw [← hyx]
  cases target with
  | absent => cases hy
  | circuit c =>
    cases List.mem_singleton.mp hy
    exact supplied
  | group g =>
    obtain ⟨c, _, rfl⟩ := List.mem_map.mp hy
    exact supplied
  | preset p => exact fit.2.1 p y hy

/-! ## Laws that read a few parts -/

/-- Some changed part is read. -/
abbrev Meets (reads changed : List Part) : Prop := ∃ p ∈ changed, p ∈ reads

/-- A property of the parts read, with one proof for each kind of action that changes one of them; an action that changes none
is passed over. -/
structure KeepsReading (reads : List Part) (P : State → Prop) : Prop where
  congr : ∀ s t, (∀ p ∈ reads, p.Same s t) → P s → P t
  startUp : ∀ s p, P s → P (s.startedFrom s.store.interrupted p)
  restart : ∀ s, P s → P s.restarted
  powerLoss : Meets reads [.store] → ∀ s, P s → P { s with store := s.store.interrupted } := by
    intro h; exact absurd h (by decide)
  save : Meets reads [.store] → ∀ s, P s → P { s with store := .writing s.config s.clock } := by
    intro h; exact absurd h (by decide)
  saved : Meets reads [.store] → ∀ s snapshot since, s.store = .writing snapshot since → P s →
    P { s with store := .valid snapshot } := by intro h; exact absurd h (by decide)
  writeSense : Meets reads [.sense] → ∀ s command result ref, P s → P (s.writeSense command result ref) := by
    intro h; exact absurd h (by decide)
  clearSense : Meets reads [.sense] → ∀ s, P s → P { s with sense := .cleared } := by intro h; exact absurd h (by decide)
  clearRefusal : Meets reads [.refusal] → ∀ s, P s → P { s with refusal := .cleared } := by intro h; exact absurd h (by decide)
  refusePress : Meets reads [.refusal] → ∀ s e r, P s → P (s.refusePress e r) := by intro h; exact absurd h (by decide)
  slot : Meets reads [.slots, .presences] → ∀ s n (c : StationConfig), n < 128 → P s →
    P ((s.setSlot n c).adjustEnrollment n (s.slot n).enrolled c.enrolled) := by intro h; exact absurd h (by decide)
  loopRestart : Meets reads [.presences, .queue] → ∀ s loop, P s → P (s.restartLoop loop) := by
    intro h; exact absurd h (by decide)
  reply : Meets reads [.presences] → ∀ s loop p, P s → P (s.takeReply loop p) := by intro h; exact absurd h (by decide)
  miss : Meets reads [.presences] → ∀ s loop p, P s → P (s.takeMiss loop p) := by intro h; exact absurd h (by decide)
  report : Meets reads [.queue] → ∀ s loop n bit ts, P s → P (s.takeReport loop n bit ts) := by intro h; exact absurd h (by decide)
  takeEntry : Meets reads [.queue, .current] → ∀ s, P s → P s.takeEntry := by intro h; exact absurd h (by decide)
  binding : Meets reads [.bindings] → ∀ s i (b : Binding), b.level ≤ 1000 ∨ b.level = (s.binding i).level → P s →
    P (s.setBinding i b) := by intro h; exact absurd h (by decide)
  group : Meets reads [.groups] → ∀ s g l, (ListFits 32 (s.group g) → ListFits 32 l) → P s → P (s.setGroup g l) := by
    intro h; exact absurd h (by decide)
  preset : Meets reads [.presets] → ∀ s p (v : Preset),
    (ListFits 64 ((s.preset p).entries.map Prod.fst) → ListFits 64 (v.entries.map Prod.fst)) →
    (EntryLevels (s.preset p).entries → EntryLevels v.entries) → P s → P (s.setPreset p v) := by
    intro h; exact absurd h (by decide)
  attrs : Meets reads [.attrs] → ∀ s c (a : CircuitAttrs), a.floor ≤ 1000 ∨ a.floor = (s.attrs c).floor →
    (a.egress = true → a.retired = false) → (a.retired = true → (s.attrs c).retired = true ∨ contributions s.holds c = []) →
    P s → P (s.setAttrs c a) := by intro h; exact absurd h (by decide)
  holdoverLevel : Meets reads [.holdover] → ∀ s l, l ≤ 1000 → P s →
    P { s with config := { s.config with holdoverLevel := l } } := by intro h; exact absurd h (by decide)
  zoneMinimum : Meets reads [.zones, .holds] → ∀ s m z v, m ≠ Mode.panic → P s →
    P (let written := { s with config := { s.config with zoneMinimums := s.config.zoneMinimums.set (zoneIndex m z) v } }
       if m = s.mode then written.parkingPass else written) := by intro h; exact absurd h (by decide)
  /-- A touch of a request whose values and circuit the checks have found right. -/
  touch : Meets reads [.holds] → ∀ s (rq : Placement) rule (f : Hold → Hold) c, rq.Gives f →
    (s.config.LevelsFit → ∀ h : Hold, h.LevelsFit → (f h).LevelsFit) → (s.attrs c).retired = false → rq.parked = s.parks rq.zone →
    (∀ h, (f h).kind = .momentary → ∃ n, rq.lastStation = some n ∧ (s.live n).presence = .online) → P s →
    P (s.setHolds (touchOn rq rule f s.holds c)) := by intro h; exact absurd h (by decide)
  thin : Meets reads [.holds] → ∀ s pool, Thinned Hold.Remains s.holds pool → P s → P (s.setHolds pool) := by
    intro h; exact absurd h (by decide)
  move : Meets reads [.holds] → ∀ s old new, old ≠ new → (s.attrs new).retired = false → P s → P (s.moveHolds old new) := by
    intro h; exact absurd h (by decide)
  mode : Meets reads [.mode, .holds] → ∀ s m cause, (m = .show → s.lock.isHeld = true) →
    (m ≠ .panic → s.mode ≠ .panic ∨ s.panicLatch = false) → P s → P (s.changeMode m cause) := by
    intro h; exact absurd h (by decide)
  latchOn : Meets reads [.panicLatch] → ∀ s, s.mode = .panic → P s → P { s with panicLatch := true } := by
    intro h; exact absurd h (by decide)
  latchOff : Meets reads [.panicLatch] → ∀ s, P s → P { s with panicLatch := false } := by intro h; exact absurd h (by decide)
  lock : Meets reads [.lock] → ∀ s (l : ShowLock), (s.mode = .show → l.isHeld = true) → P s → P { s with lock := l } := by
    intro h; exact absurd h (by decide)
  sweepStart : Meets reads [.sweep, .circuits] → ∀ s (job : SweepJob) changed, (∀ c, s.sweeper.markOn c = none) →
    job.oldCircuit ≤ 383 → P s →
    P ({ s with sweeper := { state := .sweeping job, changed := changed } }.mark job.oldCircuit (some job.newCircuit)) := by
    intro h; exact absurd h (by decide)
  sweepEnd : Meets reads [.sweep, .circuits] → ∀ s (job : SweepJob) (w : Sweeper), s.sweeper.state = .sweeping job →
    (∀ c, w.markOn c = none) → P s → P ({ s with sweeper := w }.mark job.oldCircuit none) := by
    intro h; exact absurd h (by decide)
  fault : Meets reads [.circuits] → ∀ s c (v : CircuitLive), v.moving = (s.circuit c).moving → v.faultCount ≤ 7 → P s →
    P (s.setCircuit c v) := by intro h; exact absurd h (by decide)
  faultMinute : Meets reads [.circuits] → ∀ s, P s → P { s with circuits := s.circuits.map CircuitLive.decayed } := by
    intro h; exact absurd h (by decide)

namespace KeepsReading

variable {reads changed : List Part} {P : State → Prop} {s t : State}

/-- An action that changes no part read is passed over. -/
theorem of_frame (k : KeepsReading reads P) (frame : Frame changed s t) (hard : Meets reads changed → P s → P t) (hs : P s) :
    P t := by
  by_cases h : Meets reads changed
  · exact hard h hs
  · exact k.congr s t (fun p hp => frame p fun hc => h ⟨p, hc, hp⟩) hs

theorem same (k : KeepsReading reads P) (frame : Frame [] s t) (hs : P s) : P t :=
  k.of_frame frame (fun ⟨_, hp, _⟩ => absurd hp List.not_mem_nil) hs

end KeepsReading
end Sys2Proof.Machine
end

section
namespace Sys2Proof.Machine

/-! ## What the composite actions change -/

namespace Frame

variable {s t : State} {changed : List Part}

/-- The pool changed first, the other parts after it. -/
theorem after_setHolds (h : Frame (.holds :: changed) s t) : Frame changed (s.setHolds t.holds) t := by
  intro p hp
  by_cases hh : p = .holds
  · rw [hh]
    exact rfl
  · have same := h p (by simp [hh, hp])
    cases p with
    | holds => exact absurd rfl hh
    | _ => exact same

theorem setBinding (i : Nat) (b : Binding) : Frame [.bindings] s (s.setBinding i b) := by
  intro p hp
  cases p with
  | bindings => simp at hp
  | _ => rfl

theorem setGroup (g : Nat) (l : List Nat) : Frame [.groups] s (s.setGroup g l) := by
  intro p hp
  cases p with
  | groups => simp at hp
  | _ => rfl

theorem setPreset (i : Nat) (v : Preset) : Frame [.presets] s (s.setPreset i v) := by
  intro p hp
  cases p with
  | presets => simp at hp
  | _ => rfl

theorem setAttrs (c : Nat) (a : CircuitAttrs) : Frame [.attrs] s (s.setAttrs c a) := by
  intro p hp
  cases p with
  | attrs => simp at hp
  | _ => rfl

theorem setCircuit (c : Nat) (v : CircuitLive) : Frame [.circuits] s (s.setCircuit c v) := by
  intro p hp
  cases p with
  | circuits => simp at hp
  | _ => rfl

theorem setSweeper (w : Sweeper) (c : Nat) (new : Option Nat) :
    Frame [.sweep, .circuits] s ({ s with sweeper := w }.mark c new) := by
  intro p hp
  cases p with
  | sweep => simp at hp
  | circuits => simp at hp
  | _ => rfl

theorem setStore (store : Store) : Frame [.store] s { s with store := store } := by
  intro p hp
  cases p with
  | store => simp at hp
  | _ => rfl

theorem setLock (l : ShowLock) : Frame [.lock] s { s with lock := l } := by
  intro p hp
  cases p with
  | lock => simp at hp
  | _ => rfl

theorem setPanicLatch (b : Bool) : Frame [.panicLatch] s { s with panicLatch := b } := by
  intro p hp
  cases p with
  | panicLatch => simp at hp
  | _ => rfl

theorem changeMode (m : Mode) (cause : ModeCause) : Frame [.mode, .holds] s (s.changeMode m cause) := by
  intro p hp
  cases p with
  | mode => simp at hp
  | holds => simp at hp
  | _ => rfl

theorem adjusted (n : Nat) (c : StationConfig) (was : Bool) :
    Frame [.holds, .slots, .presences] s ((s.setSlot n c).adjustEnrollment n was c.enrolled) := by
  intro p hp
  rw [State.adjustEnrollment_frame]
  cases p with
  | holds => simp at hp
  | slots => simp at hp
  | presences => simp at hp
  | _ => rfl

theorem restartLoop (loop : Loop) : Frame [.holds, .presences, .queue] s (s.restartLoop loop) := by
  intro p hp
  rw [State.restartLoop_frame]
  cases p with
  | holds => simp at hp
  | presences => simp at hp
  | queue => simp at hp
  | _ => rfl

theorem takeReply (loop : Loop) (sent : PollSent) : Frame [.presences] s (s.takeReply loop sent) := by
  intro p hp
  rw [State.takeReply_frame]
  cases p with
  | presences => simp at hp
  | _ => rfl

theorem takeMiss (loop : Loop) (sent : PollSent) : Frame [.holds, .presences] s (s.takeMiss loop sent) := by
  intro p hp
  rw [State.takeMiss_frame]
  cases p with
  | holds => simp at hp
  | presences => simp at hp
  | _ => rfl

theorem rackReplied (r : Nat) : Frame [] s ({ s with rackInFlight := none }.rackReplied r) := by
  intro p _
  rw [State.rackReplied_frame]
  cases p <;> rfl

theorem rackMissed (r : Nat) : Frame [] s ({ s with rackInFlight := none }.rackMissed r) := by
  intro p _
  rw [State.rackMissed_frame]
  cases p <;> rfl

theorem sendPoll (loop : Loop) (next : LoopState) (a : Nat) (discovery : Bool) : Frame [] s (s.sendPoll loop next a discovery) :=
  (Frame.setLive (stationNumber loop a) { s.live (stationNumber loop a) with answer := .none } rfl).trans (Frame.setLoop loop _)

/-- A report writes the queue and, of the live half, the expected bit, the answer and the deny marks. -/
theorem takeReport (loop : Loop) (n : Nat) (bit : Bool) (ts : List Transition) :
    Frame [.queue] s (s.takeReport loop n bit ts) := by
  have kept (v : StationLive) (h : v.presence = (s.live n).presence) : Frame [.queue] s (s.setLive n v) :=
    (Frame.setLive n v h).mono (List.nil_subset _)
  unfold State.takeReport
  simp only []
  split
  · exact kept _ (by unfold StationLive.unenrolledReport; split <;> rfl)
  split
  · exact kept _ rfl
  split
  · have acknowledged : Frame [] s (s.setLive n { s.live n with answer := .ack bit, expected := some (!bit) }) :=
      Frame.setLive n _ rfl
    refine acknowledged.trans (more := [.queue]) fun p hp => ?_
    cases p with
    | queue => simp at hp
    | _ => rfl
  · exact kept _ rfl

theorem takeEntry : Frame [.queue, .current] s s.takeEntry := by
  intro p hp
  rw [takeEntry_frame]
  cases p with
  | queue => simp at hp
  | current => simp at hp
  | _ => rfl

theorem refusePress (e : PressEntry) (r : Refused) : Frame [.refusal] s (s.refusePress e r) := by
  have marked : Frame [] s
      (s.setLive e.station { s.live e.station with deny := (s.live e.station).deny ||| controlMask e.control }) :=
    Frame.setLive _ _ rfl
  refine marked.trans (more := [.refusal]) fun p hp => ?_
  cases p with
  | refusal => simp at hp
  | _ => rfl

end Frame

/-- A release of momentary holds is all that a change of enrolled does to the pool (R21). -/
theorem adjustEnrollment_thinned (s : State) (n : Nat) (was now : Bool) :
    Thinned Hold.Remains s.holds (s.adjustEnrollment n was now).holds := by
  have unchanged : Thinned Hold.Remains s.holds s.holds := by
    simpa using Thinned.filter (fun _ => true) s.holds
  unfold State.adjustEnrollment
  split
  · split <;> exact unchanged
  · split
    · exact releaseWhere_thinned _ _
    · exact unchanged

theorem restartLoop_thinned (s : State) (loop : Loop) : Thinned Hold.Remains s.holds (s.restartLoop loop).holds := by
  cases loop <;> exact releaseWhere_thinned _ _

theorem takeMiss_thinned (s : State) (loop : Loop) (p : PollSent) : Thinned Hold.Remains s.holds (s.takeMiss loop p).holds := by
  have unchanged : Thinned Hold.Remains s.holds s.holds := by
    simpa using Thinned.filter (fun _ => true) s.holds
  have ended : (s.endPoll loop).holds = s.holds := by cases loop <;> rfl
  unfold State.takeMiss
  simp only []
  split
  · split
    · rw [← ended]
      exact releaseWhere_thinned _ _
    · rw [State.setLive_holds, ended]
      exact unchanged
  · split
    · rw [← ended] at unchanged
      split <;> (rw [← ended]; exact unchanged)
    · rw [ended]
      exact unchanged

/-! ## From the parts read to every action -/

namespace KeepsReading

variable {reads changed : List Part} {P : State → Prop} {s t : State}

/-- An action that thins the pool and changes other parts. -/
theorem of_thinned (k : KeepsReading reads P) (frame : Frame (.holds :: changed) s t)
    (th : Thinned Hold.Remains s.holds t.holds) (hard : Meets reads changed → P s → P t) (hs : P s) : P t := by
  by_cases h : Meets reads changed
  · exact hard h hs
  · have thin : P (s.setHolds t.holds) := k.of_frame (Frame.setHolds _) (fun hr => k.thin hr s _ th) hs
    exact k.of_frame frame.after_setHolds (fun hr => absurd hr h) thin

/-- A request over its target circuits, touch by touch (R71). -/
theorem touches (k : KeepsReading reads P) (reading : Meets reads [.holds]) {rq : Placement} {f : Nat × Nat → Hold → Hold}
    (gives : ∀ x, rq.Gives (f x)) {targets : List (Nat × Nat)}
    (levels : ∀ x ∈ targets, s.config.LevelsFit → ∀ h : Hold, h.LevelsFit → (f x h).LevelsFit)
    (service : ∀ x ∈ targets, (s.attrs x.1).retired = false) (parked : rq.parked = s.parks rq.zone)
    (momentary : ∀ x h, (f x h).kind = .momentary → ∃ n, rq.lastStation = some n ∧ (s.live n).presence = .online)
    {pool : List Hold} (hs : P (s.setHolds pool)) :
    P (s.setHolds (touchAll rq (fun c => (s.attrs c).mergeRule) f pool targets)) := by
  induction targets generalizing pool with
  | nil => exact hs
  | cons x xs ih =>
    rw [List.forall_mem_cons] at levels service
    exact ih levels.2 service.2 (k.touch reading (s.setHolds pool) rq _ (f x) x.1 (gives x) levels.1 service.1 parked
      (momentary x) hs)

/-- A switching-off TOGGLE renews or releases on each target circuit in turn (R60). -/
theorem toggles (k : KeepsReading reads P) (reading : Meets reads [.holds]) {rq : Placement} {targets : List (Nat × Nat)}
    (levels : ∀ x ∈ targets, s.config.LevelsFit → x.2 ≤ 1000) (service : ∀ x ∈ targets, (s.attrs x.1).retired = false)
    (parked : rq.parked = s.parks rq.zone) (latch : rq.kind = .latch) {pool : List Hold} (hs : P (s.setHolds pool)) :
    P (s.setHolds (targets.foldl (fun pool x => toggleOffOn rq (s.attrs x.1).mergeRule pool x) pool)) := by
  induction targets generalizing pool with
  | nil => exact hs
  | cons x xs ih =>
    rw [List.forall_mem_cons] at levels service
    refine ih levels.2 service.2 ?_
    simp only [toggleOffOn]
    split
    · exact k.touch reading (s.setHolds pool) rq _ _ x.1 (rq.gives_placed x.2)
        (fun fit h hh => Hold.placed_levels rq (levels.1 fit) hh) service.1 parked
        (fun h hm => by rw [show (h.placed rq x.2).kind = rq.kind from rfl, latch] at hm; cases hm) hs
    · exact k.thin reading (s.setHolds pool) _ (releaseWhere_thinned _ _) hs

theorem visitOn (k : KeepsReading reads P) (job : SweepJob) (hs : P s) : P (s.rewriteRecord job) := by
  unfold State.rewriteRecord
  simp only []
  split
  · split
    · exact k.of_frame (Frame.setBinding _ _) (fun hr => k.binding hr s _ _ (Or.inr rfl)) hs
    · exact k.of_frame (Frame.setGroup _ _) (fun hr => k.group hr s _ _ visitedGroup_fits) hs
    · exact k.of_frame (Frame.setPreset _ _) (fun hr => k.preset hr s _ _ visitedEntries_fits visitedEntries_levels) hs
  · exact hs

theorem setAttrs (k : KeepsReading reads P) (c : Nat) (a : CircuitAttrs) (floor : a.floor ≤ 1000 ∨ a.floor = (s.attrs c).floor)
    (egress : a.egress = true → a.retired = false)
    (empty : a.retired = true → (s.attrs c).retired = true ∨ contributions s.holds c = []) (hs : P s) : P (s.setAttrs c a) :=
  k.of_frame (Frame.setAttrs c a) (fun hr => k.attrs hr s c a floor egress empty) hs

/-- A retirement empties the circuit and marks it retired (R104). -/
theorem retire (k : KeepsReading reads P) (c : Nat) (egress : (s.attrs c).egress = false) (hs : P s) : P (s.retire c) := by
  have emptied : P (s.removeHoldsOn c) := k.of_frame (Frame.setHolds _) (fun hr => k.thin hr s _ (Thinned.filter _ _)) hs
  have none : contributions (s.removeHoldsOn c).holds c = [] := by
    rw [State.removeHoldsOn_holds]
    simp [contributions, List.filter_filter]
  have retired : P ((s.removeHoldsOn c).setAttrs c { s.attrs c with retired := true }) :=
    k.setAttrs c _ (Or.inr rfl) (fun he => by simp only [] at he; rw [egress] at he; cases he) (fun _ => Or.inr none) emptied
  exact k.congr _ _ (fun p _ => by cases p <;> rfl) retired

theorem countFault (k : KeepsReading reads P) (c : Nat) (hs : P s) : P (s.countFault c) := by
  have counted : P (s.setCircuit c
      { s.circuit c with faultCount := min 7 ((s.circuit c).faultCount + 1), reported := true }) :=
    k.of_frame (Frame.setCircuit c _) (fun hr => k.fault hr s c _ rfl (Nat.min_le_left _ _)) hs
  unfold State.countFault
  simp only []
  split
  · split
    · exact k.congr _ _ (fun p _ => by cases p <;> rfl) counted
    · exact counted
  · rename_i egress
    split
    · exact k.retire c (Bool.eq_false_iff.mpr egress) counted
    · exact counted

theorem changeMode (k : KeepsReading reads P) (m : Mode) (cause : ModeCause) (hl : m = .show → s.lock.isHeld = true)
    (hp : m ≠ .panic → s.mode ≠ .panic ∨ s.panicLatch = false) (hs : P s) : P (s.changeMode m cause) :=
  k.of_frame (Frame.changeMode m cause) (fun hr => k.mode hr s m cause hl hp) hs

theorem setLock (k : KeepsReading reads P) (l : ShowLock) (hl : s.mode = .show → l.isHeld = true) (hs : P s) :
    P { s with lock := l } := k.of_frame (Frame.setLock l) (fun hr => k.lock hr s l hl) hs

/-- A lapse leaves SHOW for HOLDOVER and frees the lock (R153). -/
theorem lapse (k : KeepsReading reads P) (cause : ModeCause) (hs : P s) : P (s.lapse cause) := by
  unfold State.lapse
  split
  · rename_i show_
    have left : P (s.changeMode .holdover cause) :=
      k.changeMode .holdover cause (fun h => by cases h) (fun _ => Or.inl (by rw [show_]; decide)) hs
    exact k.setLock .free (fun h => by cases h) left
  · rename_i other
    have freed : P { s with lock := .free } := k.setLock .free (fun h => absurd h other) hs
    exact k.congr _ _ (fun p _ => by cases p <;> rfl) freed

/-- The panic input enters PANIC, and its latch is set there (R141). -/
theorem panicInput (k : KeepsReading reads P) (hs : P s) : P ({ s with panicLatch := true }.enterPanic .panicInput) := by
  have latched {u : State} (hm : u.mode = .panic) (hu : P u) : P { u with panicLatch := true } :=
    k.of_frame (Frame.setPanicLatch true) (fun hr => k.latchOn hr u hm) hu
  unfold State.enterPanic
  split
  · rename_i panic
    exact latched panic hs
  · exact latched (u := s.changeMode .panic .panicInput) rfl
      (k.changeMode .panic .panicInput (fun h => by cases h) (fun h => absurd rfl h) hs)

theorem sweepStart_keeps (k : KeepsReading reads P) (job : SweepJob) (changed : Nat) (none : ∀ c, s.sweeper.markOn c = none)
    (old : job.oldCircuit ≤ 383) (hs : P s) :
    P ({ s with sweeper := { state := .sweeping job, changed := changed } }.mark job.oldCircuit (some job.newCircuit)) :=
  k.of_frame (Frame.setSweeper _ _ _) (fun hr => k.sweepStart hr s job changed none old) hs

theorem sweepEnd_keeps (k : KeepsReading reads P) (job : SweepJob) (w : Sweeper) (sweeping : s.sweeper.state = .sweeping job)
    (none : ∀ c, w.markOn c = none) (hs : P s) : P ({ s with sweeper := w }.mark job.oldCircuit Option.none) :=
  k.of_frame (Frame.setSweeper _ _ _) (fun hr => k.sweepEnd hr s job w sweeping none) hs

theorem markOn_of_inactive {w : Sweeper} (h : w.active = false) (c : Nat) : w.markOn c = none := by
  obtain ⟨state, changed⟩ := w
  cases state with
  | sweeping job => cases h
  | _ => rfl

/-- A visit rewrites the record at its position; the sweep goes on with the same mark, or ends and clears it (R172, R173). -/
theorem visit (k : KeepsReading reads P) (job : SweepJob) (sweeping : s.sweeper.state = .sweeping job) (hs : P s) :
    P (s.visit job) := by
  have written : P (s.rewriteRecord job) := k.visitOn job hs
  have sweeper : (s.rewriteRecord job).sweeper = s.sweeper := by rw [State.rewriteRecord_frame]
  unfold State.visit
  simp only []
  split
  · refine k.congr _ _ (fun p _ => ?_) written
    cases p with
    | sweep =>
      show Sweeper.markOn _ = Sweeper.markOn _
      rw [sweeper]
      unfold Sweeper.markOn
      rw [sweeping]
    | _ => rfl
  · have ended := k.sweepEnd_keeps job { state := .idle, changed := s.sweeper.changed + (s.visitCounts job).toNat }
      (by rw [sweeper]; exact sweeping) (fun _ => rfl) written
    exact k.congr _ _ (fun p _ => by cases p <;> rfl) ended

/-- An accepted edit is the edit alone to the laws: they read neither image pending nor a discarded continuation. -/
theorem edited (k : KeepsReading reads P) (before : State) (hs : P t) :
    P (before.recomputeImages t.discardContinuation) :=
  k.same (Frame.recomputed before (Frame.discard fun p _ => by cases p <;> rfl)) hs

theorem recomputed (k : KeepsReading reads P) (before : State) (hs : P t) : P (before.recomputeImages t) :=
  k.same (Frame.recomputed before fun p _ => by cases p <;> rfl) hs

/-- A law that is kept by the actions that change what it reads is kept by every action. -/
theorem keeps (k : KeepsReading reads P) : Keeps P where
  frame s _ _ _ := k.congr s _ fun p _ => by cases p <;> rfl
  startUp := k.startUp
  powerLoss s hs := k.congr { s with store := s.store.interrupted } _ (fun p _ => by cases p <;> rfl)
    (k.of_frame (Frame.setStore _) (fun hr => k.powerLoss hr s) hs)
  writeSense s command result ref := k.of_frame (changed := [.sense])
    (fun p hp => by cases p with | sense => simp at hp | _ => rfl) (fun hr => k.writeSense hr s command result ref)
  clearSense s := k.of_frame (changed := [.sense]) (fun p hp => by cases p with | sense => simp at hp | _ => rfl)
    (fun hr => k.clearSense hr s)
  clearRefusal s := k.of_frame (changed := [.refusal]) (fun p hp => by cases p with | refusal => simp at hp | _ => rfl)
    (fun hr => k.clearRefusal hr s)
  clearEvents s := k.congr s _ fun p _ => by cases p <;> rfl
  mask s _ := k.congr s _ fun p _ => by cases p <;> rfl
  restart := k.restart
  save s := k.of_frame (Frame.setStore _) (fun hr => k.save hr s)
  saved s snapshot since hw hs := k.congr { s with store := .valid snapshot } _ (fun p _ => by cases p <;> rfl)
    (k.of_frame (Frame.setStore _) (fun hr => k.saved hr s snapshot since hw) hs)
  slot s n c usable _ _ _ _ hs := k.recomputed s
    (k.of_thinned (Frame.adjusted n c _) (adjustEnrollment_thinned _ _ _ _)
      (fun hr => k.slot hr s n c (by simp [stationUsable] at usable; omega)) hs)
  loopRestart s loop hs := k.recomputed s
    (k.of_thinned (Frame.restartLoop loop) (restartLoop_thinned s loop) (fun hr => k.loopRestart hr s loop) hs)
  discard s := k.same (Frame.discard fun p _ => by cases p <;> rfl)
  binding s i b _ _ hb hs := k.edited s <| by
    refine k.of_frame (Frame.setBinding i b) (fun hr => k.binding hr s i b (Or.inl ?_)) hs
    rcases hb with rfl | ⟨_, fit⟩
    · exact Nat.zero_le _
    · simp only [Binding.fits, Bool.and_eq_true, decide_eq_true_eq] at fit
      exact fit.1.1.1.1.1.1.1.2
  attrs s c a _ _ floor retired egress hs := k.edited s <|
    k.setAttrs c a (Or.inl floor) egress (fun h => Or.inl (retired ▸ h)) hs
  retire s c _ _ egress hs := k.edited s (k.retire c egress hs)
  restore s c _ _ hs := k.edited s <| by
    have restored : P (s.setAttrs c { s.attrs c with retired := false }) :=
      k.setAttrs c _ (Or.inr rfl) (fun _ => rfl) (fun h => by cases h) hs
    exact k.of_frame (Frame.setCircuit c _) (fun hr => k.fault hr _ c _ rfl (Nat.zero_le _)) restored
  groupAdd s g c _ _ _ new room hs := k.edited s
    (k.of_frame (Frame.setGroup g _) (fun hr => k.group hr s g _ fun fit => fit.append new room) hs)
  groupRemove s g j _ _ hs := k.edited s
    (k.of_frame (Frame.setGroup g _) (fun hr => k.group hr s g _ fun fit => fit.sublist (List.eraseIdx_sublist _ _)) hs)
  presetReplace s p j c level _ _ _ hl hj hs := k.edited s <| by
    obtain ⟨before, x, after, split, rfl, hx, _⟩ := positionOf_some hj
    have replaced : (s.preset p).entries.set before.length (c, level) = before ++ (c, level) :: after := by
      rw [split, List.set_append_right _ _ (Nat.le_refl _), Nat.sub_self, List.set_cons_zero]
    have name : x.1 = c := by simpa using hx
    refine k.of_frame (Frame.setPreset p _) (fun hr => k.preset hr s p _ (fun fit => ?_) fun fit => ?_) hs
    · simp only [replaced]
      rw [split] at fit
      simpa [name] using fit
    · simp only [replaced]
      rw [split] at fit
      intro y hy
      rcases List.mem_append.mp hy with hb | ha
      · exact fit y (List.mem_append_left _ hb)
      · rcases List.mem_cons.mp ha with rfl | ha
        · exact hl
        · exact fit y (List.mem_append_right _ (List.mem_cons_of_mem _ ha))
  presetAppend s p c level _ _ _ hl new room hs := k.edited s <| by
    refine k.of_frame (Frame.setPreset p _) (fun hr => k.preset hr s p _ (fun fit => ?_) fun fit => ?_) hs
    · rw [List.map_append]
      refine fit.append (fun hm => ?_) (by simpa using room)
      obtain ⟨x, hx, hxc⟩ := List.mem_map.mp hm
      have := positionOf_eq_none.mp new x hx
      simp [hxc] at this
    · intro y hy
      rcases List.mem_append.mp hy with hb | ha
      · exact fit y hb
      · cases List.mem_singleton.mp ha
        exact hl
  presetRemove s p j _ _ hs := k.edited s
    (k.of_frame (Frame.setPreset p _) (fun hr => k.preset hr s p _
      (fun fit => fit.sublist ((List.eraseIdx_sublist _ _).map _)) fun fit x hx => fit x (List.mem_of_mem_eraseIdx hx)) hs)
  presetAttr s p fade zone _ _ _ _ hs := k.edited s
    (k.of_frame (Frame.setPreset p _) (fun hr => k.preset hr s p _ id id) hs)
  place s rq target level hl parked _ momentary hs := k.recomputed s
    (k.of_frame (Frame.setHolds _) (fun hr _ => k.touches hr (fun x => rq.gives_placed x.2)
      (fun x hx fit h hh => Hold.placed_levels rq (targets_levels fit hl hx) hh) (fun x hx => (mem_targets hx).1) parked
      (fun _ _ => momentary) hs) hs)
  ramps s rq direction target level parked _ hs := k.recomputed s
    (k.of_frame (Frame.setHolds _) (fun hr _ => k.touches hr (fun _ => rq.gives_ramped direction)
      (fun x hx fit h hh => Hold.ramped_levels rq direction hh) (fun x hx => (mem_targets hx).1) parked
      (fun _ _ latch => by cases latch) hs) hs)
  toggleOff s rq target level hl parked latch hs := k.recomputed s
    (k.of_frame (Frame.setHolds _) (fun hr _ => k.toggles hr (fun x hx fit => targets_levels fit hl hx)
      (fun x hx => (mem_targets hx).1) parked latch hs) hs)
  release s p hs := k.recomputed s
    (k.of_frame (Frame.setHolds _) (fun hr => k.thin hr s _ (releaseWhere_thinned p _)) hs)
  stopRamps s o targets hs := k.recomputed s
    (k.of_frame (Frame.setHolds _) (fun hr => k.thin hr s _ (Thinned.map _ fun h => by
      split
      · exact h.stopped_remains
      · exact .refl h)) hs)
  mode s m cause hl hp hs := k.recomputed s (k.changeMode m cause hl hp hs)
  recompute s hs := k.recomputed s hs
  panicInput s hs := k.recomputed s (k.panicInput hs)
  panicInputOff s := k.of_frame (Frame.setPanicLatch false) (fun hr => k.latchOff hr s)
  zoneMinimum s m z v hm _ hs := k.recomputed s <| by
    refine k.of_frame (changed := [.zones, .holds]) (fun p hp => ?_) (fun hr => k.zoneMinimum hr s m z v hm) hs
    cases p with
    | zones => simp at hp
    | holds => simp at hp
    | _ => simp only []; split <;> rfl
  holdoverLevel s l hl hs := k.recomputed s
    (k.of_frame (changed := [.holdover]) (fun p hp => by cases p with | holdover => simp at hp | _ => rfl)
      (fun hr => k.holdoverLevel hr s l hl) hs)
  lock s l hl := k.setLock l fun _ => hl
  lockFree s hm := k.setLock .free fun h => absurd h hm
  lapse s cause hs := k.recomputed s (k.lapse cause hs)
  retarget s old new inactive hold _ hne service hs := k.recomputed s <| by
    have started := k.sweepStart_keeps ⟨old, new, .first⟩ 0 (markOn_of_inactive inactive) hold hs
    exact k.of_frame (Frame.setHolds _) (fun hr => k.move hr _ old new hne service) started
  reissue s job aborted hold _ _ hs := k.recomputed s
    (k.sweepStart_keeps job 0 (markOn_of_inactive (by simp [Sweeper.active, aborted])) hold hs)
  visit s job sweeping hs := k.recomputed s (k.visit job sweeping hs)
  abort s job sweeping hs := k.recomputed s
    (k.congr _ _ (fun p _ => by cases p <;> rfl)
      (k.sweepEnd_keeps job { s.sweeper with state := .aborted job } sweeping (fun _ => rfl) hs))
  poll s loop a _ _ := k.same (Frame.sendPoll loop _ a false)
  discovery s loop a _ _ := k.same (Frame.sendPoll loop _ a true)
  newRound s loop _ := k.same (Frame.setLoop loop _)
  reply s loop p _ := k.of_frame (Frame.takeReply loop p) (fun hr => k.reply hr s loop p)
  report s loop n bit ts := k.of_frame (Frame.takeReport loop n bit ts) (fun hr => k.report hr s loop n bit ts)
  miss s loop p _ hs := k.recomputed s
    (k.of_thinned (Frame.takeMiss loop p) (takeMiss_thinned s loop p) (fun hr => k.miss hr s loop p) hs)
  takeEntry s := k.of_frame Frame.takeEntry (fun hr => k.takeEntry hr s)
  refusePress s e r := k.of_frame (Frame.refusePress e r) (fun hr => k.refusePress hr s e r)
  fadeStep s _ hs := k.recomputed s
    (k.congr (s.setHolds (s.holds.filterMap Hold.stepped)) _ (fun p _ => by cases p <;> rfl)
      (k.of_frame (Frame.setHolds _) (fun hr => k.thin hr s _ (Thinned.filterMap _ fun _ _ => Hold.stepped_remains)) hs))
  minute s _ hs := k.recomputed s
    (k.congr (s.setHolds (s.holds.filterMap Hold.minuted)) _ (fun p _ => by cases p <;> rfl)
      (k.of_frame (Frame.setHolds _) (fun hr => k.thin hr s _ (Thinned.filterMap _ fun _ _ => Hold.minuted_remains)) hs))
  refresh s r _ _ := k.congr s _ fun p _ => by cases p <;> rfl
  status s r entries _ fits hr hs := k.recomputed s
    (State.countFaults_keeps _ (fun _ c _ hu => k.countFault c hu) r hr entries fits (k.same (Frame.rackReplied r) hs))
  rackMiss s r _ := k.same (Frame.rackMissed r)
  faultMinute s _ hs := k.congr { s with circuits := s.circuits.map CircuitLive.decayed } _ (fun p _ => by cases p <;> rfl)
    (k.of_frame (changed := [.circuits]) (fun p hp => by cases p with | circuits => simp at hp | _ => rfl)
      (fun hr => k.faultMinute hr s) hs)

end KeepsReading
end Sys2Proof.Machine
end

section
/-! The laws of modes, queue, reports, lists, circuits and retirement. -/
namespace Sys2Proof.Machine

/-! ## Modes (R141, R154) -/

theorem lockLaw_keepsReading : KeepsReading [.mode, .lock] State.LockLaw where
  congr s t same law := by
    have mode : t.mode = s.mode := same .mode (by simp)
    have lock : t.lock = s.lock := same .lock (by simp)
    rwa [State.LockLaw, mode, lock]
  startUp s p _ shows := by
    have mode : s.store.interrupted.startMode p = .show := shows
    cases hs : s.store.interrupted <;> cases p <;> simp [hs, Store.startMode] at mode
  restart s _ shows := by
    have mode : s.restartMode = .show := shows
    unfold State.restartMode at mode
    split at mode <;> cases mode
  mode _ s m cause held _ _ := held
  lock _ s l held _ := held

theorem panicLaw_keepsReading : KeepsReading [.mode, .panicLatch] State.PanicLaw where
  congr s t same law := by
    have mode : t.mode = s.mode := same .mode (by simp)
    have latch : t.panicLatch = s.panicLatch := same .panicLatch (by simp)
    rwa [State.PanicLaw, mode, latch]
  startUp s p _ active := by
    show s.store.interrupted.startMode p = .panic
    have input : p = true := active
    cases s.store.interrupted <;> simp [Store.startMode, input]
  restart s _ active := by
    show s.restartMode = .panic
    exact if_pos active
  mode _ s m cause _ leaves law active := by
    show m = .panic
    by_contra hm
    rcases leaves hm with other | inactive
    · exact other (law active)
    · exact absurd (active : s.panicLatch = true) (by simp [inactive])
  latchOn _ s panic _ _ := panic
  latchOff _ s _ active := by cases active

/-- Settles O52: of the actions only mode changes, the lock's and the panic input's touch what the two laws read. -/
theorem modeLawsKept : Obligations.ModeLawsKept :=
  ⟨lockLaw_keepsReading.keeps.step, panicLaw_keepsReading.keeps.step⟩

/-! ## The press queue and the current entry (R37, R41) -/

theorem currentLaw_keepsReading : KeepsReading [.current] State.CurrentLaw where
  congr s t same law := by
    have current : t.current = s.current := same .current (by simp)
    exact current.trans law
  startUp _ _ _ := rfl
  restart _ _ := rfl
  takeEntry _ s law := by
    have empty : s.current = none := law
    rw [State.CurrentLaw, State.takeEntry, empty]

theorem queueLaw_keepsReading : KeepsReading [.queue] State.QueueLaw where
  congr s t same law := by
    have queue : t.queue = s.queue := same .queue (by simp)
    rwa [State.QueueLaw, queue]
  startUp _ _ _ := Nat.zero_le _
  restart _ _ := Nat.zero_le _
  loopRestart _ s loop law := by
    have filtered : (s.restartLoop loop).queue = s.queue.filter (fun e => e.loop != loop) := by cases loop <;> rfl
    rw [State.QueueLaw, filtered]
    exact (List.length_filter_le _ _).trans law
  report _ s loop n bit ts law := by
    unfold State.takeReport
    simp only []
    split
    · exact law
    split
    · exact law
    split
    · rename_i room
      show (s.queue ++ reportEntries n loop ts).length ≤ Config.queueSize
      have bound : s.queue.length ≤ Config.queueSize := law
      have entries : (reportEntries n loop ts).length = ts.length := List.length_map _
      rw [List.length_append, entries]
      omega
    · exact law
  takeEntry _ s law := by
    unfold State.takeEntry
    split
    · exact law
    · have shorter : s.queue.tail.length ≤ s.queue.length := by simp
      exact shorter.trans law

/-! ## The reporting records (R53, R184) -/

theorem reportsLaw_keepsReading : KeepsReading [.sense, .refusal] State.ReportsLaw where
  congr s t same law := by
    have sense : t.sense = s.sense := same .sense (by simp)
    have refusal : t.refusal = s.refusal := same .refusal (by simp)
    rwa [State.ReportsLaw, sense, refusal]
  startUp _ _ _ := ⟨fun _ => rfl, fun _ => rfl⟩
  restart s _ := by
    refine ⟨?_, fun _ => rfl⟩
    show s.sweeper.restartSense.valid = false → s.sweeper.restartSense = _
    unfold Sweeper.restartSense
    split
    · intro h
      cases h
    · exact fun _ => rfl
  writeSense _ s command result ref law := ⟨fun h => by simp [State.writeSense] at h, law.2⟩
  clearSense _ s law := ⟨fun _ => rfl, law.2⟩
  clearRefusal _ s law := ⟨law.1, fun _ => rfl⟩
  refusePress _ s e r law := ⟨law.1, fun h => by simp [State.refusePress] at h⟩

/-! ## What holds of every configuration held -/

/-- A property of configurations that the default one has is kept by a start-up, by the store's actions and by RESTART. -/
theorem configurations_startedFrom {Q : Configuration → Prop} (default : Q Configuration.default) {s : State}
    (law : ∀ g ∈ s.configurations, Q g) (p : Bool) : ∀ g ∈ (s.startedFrom s.store.interrupted p).configurations, Q g := by
  unfold State.configurations at *
  show ∀ g ∈ s.store.interrupted.loaded :: (match s.store.interrupted with
    | .valid image => [image]
    | .writing snapshot _ => [snapshot]
    | .invalid => []), Q g
  cases hs : s.store with
  | valid image =>
    rw [hs] at law
    have stored : Q image := law image (by simp)
    simpa [Store.interrupted, Store.loaded] using stored
  | invalid => simpa [Store.interrupted, Store.loaded] using default
  | writing snapshot since => simpa [Store.interrupted, Store.loaded] using default

theorem configurations_interrupted {Q : Configuration → Prop} {s : State} (law : ∀ g ∈ s.configurations, Q g) :
    ∀ g ∈ State.configurations { s with store := s.store.interrupted }, Q g := by
  unfold State.configurations at *
  cases hs : s.store with
  | valid image => rwa [hs] at law
  | invalid => rwa [hs] at law
  | writing snapshot since =>
    rw [hs] at law
    simpa [Store.interrupted] using law s.config (by simp)

theorem configurations_saving {Q : Configuration → Prop} {s : State} (law : ∀ g ∈ s.configurations, Q g) :
    ∀ g ∈ State.configurations { s with store := .writing s.config s.clock }, Q g := by
  have live : Q s.config := law s.config (by simp [State.configurations])
  simpa [State.configurations] using live

theorem configurations_saved {Q : Configuration → Prop} {s : State} {snapshot : Configuration} {since : Nat}
    (hw : s.store = .writing snapshot since) (law : ∀ g ∈ s.configurations, Q g) :
    ∀ g ∈ State.configurations { s with store := .valid snapshot }, Q g := by
  unfold State.configurations at *
  rwa [hw] at law

/-- An edit of the live configuration leaves what the store holds. -/
theorem configurations_edited {Q : Configuration → Prop} {s t : State} (store : t.store = s.store) (edit : Q s.config → Q t.config)
    (law : ∀ g ∈ s.configurations, Q g) : ∀ g ∈ t.configurations, Q g := by
  unfold State.configurations at *
  rw [List.forall_mem_cons] at *
  rw [store]
  exact ⟨edit law.1, law.2⟩

/-! ## Group and preset lists (R118, R122) -/

theorem listsFit_default : Configuration.default.ListsFit := by
  constructor
  · intro k
    simp [Configuration.default]
  · intro p
    simp [Configuration.default, Preset.empty]

theorem listsFit_congr {g f : Configuration} (groups : f.groups = g.groups) (presets : f.presets = g.presets) (fit : g.ListsFit) :
    f.ListsFit := by
  rwa [Configuration.ListsFit, groups, presets]

theorem listsLaw_keepsReading : KeepsReading [.groups, .presets, .store] State.ListsLaw where
  congr s t same law := configurations_edited (same .store (by simp))
    (listsFit_congr (same .groups (by simp)) (same .presets (by simp))) law
  startUp s p law := configurations_startedFrom listsFit_default law p
  restart s law := law
  powerLoss _ s law := configurations_interrupted law
  save _ s law := configurations_saving law
  saved _ s snapshot since hw law := configurations_saved hw law
  group _ s g l hl law := by
    refine configurations_edited (s := s) rfl (fun fit => ⟨fun k => ?_, fit.2⟩) law
    show ListFits 32 ((s.setGroup g l).group k)
    rw [State.group_setGroup]
    split
    · rename_i hk
      exact hl (fit.1 g)
    · exact fit.1 k
  preset _ s p v hv _ law := by
    refine configurations_edited (s := s) rfl (fun fit => ⟨fit.1, fun q => ?_⟩) law
    have entries (u : Preset) : u.entries.length ≤ 64 ∧ (u.entries.map Prod.fst).Nodup ↔ ListFits 64 (u.entries.map Prod.fst) := by
      rw [ListFits, List.length_map]
    refine (entries ((s.setPreset p v).preset q)).mpr ?_
    rw [State.preset_setPreset]
    split
    · exact hv ((entries _).mp (fit.2 p))
    · exact (entries _).mp (fit.2 q)

/-- Settles O53: the four laws read the current entry, the queue, the lists of the configurations held, and the two records. -/
theorem boundsKept : Obligations.BoundsKept :=
  ⟨currentLaw_keepsReading.keeps.step, queueLaw_keepsReading.keeps.step, listsLaw_keepsReading.keeps.step,
    reportsLaw_keepsReading.keeps.step⟩

/-! ## MOVING marks and fault counts (R167, R169) -/

/-- Writing a MOVING mark changes that mark alone. -/
theorem circuit_mark (s : State) (c : Nat) (new : Option Nat) (d : Nat) :
    (s.mark c new).circuit d = if c = d ∧ d < 384 then { s.circuit d with moving := new } else s.circuit d := by
  rw [State.mark, State.circuit_setCircuit]
  split
  · rename_i h
    rw [h.1]
  · rfl

/-- The minute decay of every circuit (R166). -/
theorem circuit_decayed (s : State) (c : Nat) :
    State.circuit { s with circuits := s.circuits.map CircuitLive.decayed } c = (s.circuit c).decayed := by
  rw [State.circuit, Table.get_map _ _ _ CircuitLive.clear]
  split
  · rfl
  · rename_i beyond
    rw [State.circuit_beyond s (Nat.le_of_not_lt beyond)]
    rfl

theorem circuit_fill (c : Nat) : (Table.fill 384 CircuitLive.clear).get CircuitLive.clear c = CircuitLive.clear := by
  simp

theorem markLaw_keepsReading : KeepsReading [.circuits, .sweep] State.MarkLaw where
  congr s t same law c := by
    have circuits : t.circuits = s.circuits := same .circuits (by simp)
    have sweep : t.sweeper.markOn = s.sweeper.markOn := same .sweep (by simp)
    rw [State.circuit, circuits, sweep]
    exact law c
  startUp s p _ c := congrArg CircuitLive.moving (circuit_fill c)
  restart s _ c := by
    have none : s.sweeper.restarted.markOn c = none := by
      unfold Sweeper.restarted
      split
      · rfl
      · unfold Sweeper.markOn
        split
        · rename_i other _ _ sweeping
          exact absurd sweeping (other _)
        · rfl
    exact (congrArg CircuitLive.moving (circuit_fill c)).trans none.symm
  sweepStart _ s job changed none old law c := by
    rw [circuit_mark]
    have before : (s.circuit c).moving = Option.none := (law c).trans (none c)
    show (if _ then _ else s.circuit c).moving = if c = job.oldCircuit then some job.newCircuit else Option.none
    by_cases hc : c = job.oldCircuit
    · rw [if_pos ⟨hc.symm, by omega⟩, if_pos hc]
    · rw [if_neg (fun h => hc h.1.symm), if_neg hc, before]
  sweepEnd _ s job w sweeping none law c := by
    rw [circuit_mark]
    show (if _ then _ else s.circuit c).moving = w.markOn c
    rw [none c]
    split
    · rfl
    · rename_i other
      by_cases hc : job.oldCircuit = c
      · rw [State.circuit_beyond s (Nat.le_of_not_lt fun hlt => other ⟨hc, hlt⟩)]
        rfl
      · rw [law c, Sweeper.markOn, sweeping]
        exact if_neg fun h => hc h.symm
  fault _ s c v moving _ law d := by
    rw [State.circuit_setCircuit]
    split
    · rename_i hd
      rw [moving, hd.1]
      exact law d
    · exact law d
  faultMinute _ s law c := by
    rw [circuit_decayed]
    exact law c

theorem faultLaw_keepsReading : KeepsReading [.circuits] State.FaultLaw where
  congr s t same law c := by
    have circuits : t.circuits = s.circuits := same .circuits (by simp)
    rw [State.circuit, circuits]
    exact law c
  startUp s p _ c := (congrArg CircuitLive.faultCount (circuit_fill c)).trans_le (Nat.zero_le _)
  restart s _ c := (congrArg CircuitLive.faultCount (circuit_fill c)).trans_le (Nat.zero_le _)
  sweepStart _ s job changed _ _ law c := by
    rw [circuit_mark]
    split <;> exact law c
  sweepEnd _ s job w _ _ law c := by
    rw [circuit_mark]
    split <;> exact law c
  fault _ s c v _ count law d := by
    rw [State.circuit_setCircuit]
    split
    · exact count
    · exact law d
  faultMinute _ s law c := by
    rw [circuit_decayed, CircuitLive.decayed]
    have count := law c
    simp only []
    split <;> omega

/-- Settles O54: marks are written where a sweep starts or ends, fault counts where a fault is counted or decays. -/
theorem circuitLawsKept : Obligations.CircuitLawsKept :=
  ⟨markLaw_keepsReading.keeps.step, faultLaw_keepsReading.keeps.step⟩

end Sys2Proof.Machine
end

section
/-! The laws of the hold pool. Each is a property of the holds that touches, thinnings, moves, parking passes and
retirements keep. -/
namespace Sys2Proof.Machine

/-! ## Retired circuits (R98) -/

/-- A thinned pool holds nothing where the pool held nothing. -/
theorem Thinned.contributions_eq_nil {pool after : List Hold} (th : Thinned Hold.Continues pool after) {c : Nat}
    (h : contributions pool c = []) : contributions after c = [] := by
  rw [List.eq_nil_iff_forall_not_mem] at *
  intro k hk
  obtain ⟨hk, hc⟩ := mem_contributions.mp hk
  obtain ⟨j, hj, hjk⟩ := th.mem hk
  exact h j (mem_contributions.mpr ⟨hj, hjk.circuit.symm.trans hc⟩)

/-- A touch changes the list of its own circuit alone. -/
theorem contributions_touchOn_elsewhere {rq : Placement} {rule : MergeRule} {f : Hold → Hold} (gives : rq.Gives f)
    {pool : List Hold} {c d : Nat} (hd : d ≠ c) : contributions (touchOn rq rule f pool c) d = contributions pool d := by
  rcases touchOn_cases rq rule f pool c with ⟨h, _, hc, _, _, touched⟩ | ⟨slot, _, touched⟩ | touched
  · rw [touched]
    exact contributions_touchOn_other ((gives.circuit h).trans hc) hd
  · rw [touched]
    exact contributions_touchOn_other (gives.circuit _) hd
  · rw [touched]

/-- A retarget leaves nothing on the old circuit, and its moved holds on the new one (R89). -/
theorem mem_moveHolds {s : State} {old new : Nat} {k : Hold} (hk : k ∈ (s.moveHolds old new).holds) :
    (k ∈ s.holds ∧ k.circuit ≠ old) ∨ ∃ h ∈ movedHolds s.holds old new, k = { h with circuit := new } := by
  rcases List.mem_append.mp hk with hk | hk
  · exact Or.inl (by simpa using hk)
  · obtain ⟨h, hh, rfl⟩ := List.mem_map.mp hk
    exact Or.inr ⟨h, hh, rfl⟩

theorem mem_movedHolds {pool : List Hold} {old new : Nat} {h : Hold} :
    h ∈ movedHolds pool old new ↔
      h ∈ pool ∧ h.circuit = old ∧ ∀ k ∈ pool, k.circuit = new → k.originator ≠ h.originator := by
  simp only [movedHolds, contributions, Hold.isOf, List.mem_filter, Bool.not_eq_true', List.any_eq_false, Bool.and_eq_true,
    beq_iff_eq, not_and, ne_eq, and_assoc]

/-- A mode change leaves the pool to a parking pass (R136). -/
theorem changeMode_thinned (s : State) (m : Mode) (cause : ModeCause) :
    Thinned Hold.Continues s.holds (s.changeMode m cause).holds :=
  parkingPass_thinned ({ s with mode := m }.latchMode m cause)

theorem retiredNotEgress_default : Configuration.default.RetiredNotEgress := by
  intro c _
  simp [Configuration.default, CircuitAttrs.default]

theorem retiredLaw_keepsReading : KeepsReading [.attrs, .holds, .store] State.RetiredLaw where
  congr s t same law := by
    have attrs : t.config.circuits = s.config.circuits := same .attrs (by simp)
    have holds : t.holds = s.holds := same .holds (by simp)
    refine ⟨configurations_edited (same .store (by simp)) (fun fit => ?_) law.1, fun c hc => ?_⟩
    · rwa [Configuration.RetiredNotEgress, attrs]
    · rw [holds]
      exact law.2 c (by rwa [State.attrs, attrs] at hc)
  startUp s p law := ⟨configurations_startedFrom retiredNotEgress_default law.1 p, fun _ _ => rfl⟩
  restart s law := ⟨law.1, fun _ _ => rfl⟩
  powerLoss _ s law := ⟨configurations_interrupted law.1, law.2⟩
  save _ s law := ⟨configurations_saving law.1, law.2⟩
  saved _ s snapshot since hw law := ⟨configurations_saved hw law.1, law.2⟩
  attrs _ s c a _ egress empty law := by
    refine ⟨configurations_edited (s := s) rfl (fun fit d hd => ?_) law.1, fun d hd => ?_⟩
    · have read : (s.setAttrs c a).attrs d = _ := State.attrs_setAttrs s c d a
      show ((s.setAttrs c a).attrs d).egress = false
      replace hd : ((s.setAttrs c a).attrs d).retired = true := hd
      rw [read] at hd ⊢
      split
      · rename_i h
        rw [if_pos h] at hd
        by_contra he
        rw [egress (by simpa using he)] at hd
        cases hd
      · rename_i h
        rw [if_neg h] at hd
        exact fit d hd
    · rw [State.attrs_setAttrs] at hd
      split at hd
      · rename_i h
        rw [← h.1]
        rcases empty hd with retired | none
        · exact law.2 c retired
        · exact none
      · exact law.2 d hd
  touch _ s rq rule f c gives _ service _ _ law := by
    refine ⟨law.1, fun d hd => ?_⟩
    have other : d ≠ c := by
      rintro rfl
      have retired : (s.attrs d).retired = true := hd
      rw [service] at retired
      cases retired
    exact (contributions_touchOn_elsewhere gives other).trans (law.2 d hd)
  thin _ s pool th law := ⟨law.1, fun c hc => (th.mono fun _ _ h => h.toContinues).contributions_eq_nil (law.2 c hc)⟩
  move _ s old new _ service law := by
    refine ⟨law.1, fun c hc => ?_⟩
    have none := List.eq_nil_iff_forall_not_mem.mp (law.2 c hc)
    rw [List.eq_nil_iff_forall_not_mem]
    intro k hk
    obtain ⟨hk, hkc⟩ := mem_contributions.mp hk
    rcases mem_moveHolds hk with ⟨hks, _⟩ | ⟨h, _, rfl⟩
    · exact none k (mem_contributions.mpr ⟨hks, hkc⟩)
    · have retired : (s.attrs new).retired = true := by
        rw [show new = c from hkc]
        exact hc
      exact absurd retired (by simp [service])
  mode _ s m cause _ _ law := ⟨law.1, fun c hc => (changeMode_thinned s m cause).contributions_eq_nil (law.2 c hc)⟩
  zoneMinimum _ s m z v _ law := by
    simp only []
    split
    · exact ⟨configurations_edited (s := s) rfl id law.1,
        fun c hc => (parkingPass_thinned { s with config := _ }).contributions_eq_nil (law.2 c hc)⟩
    · exact ⟨configurations_edited (s := s) rfl id law.1, law.2⟩

/-- Settles O55: a circuit becomes retired when it is emptied, a touched one is in service, and no edit makes a retired circuit an
egress circuit. -/
theorem retiredLawKept : Obligations.RetiredLawKept := retiredLaw_keepsReading.keeps.step

/-! ## Parked holds (R85) -/

theorem zoneIndex_ne {m n : Mode} (h : m ≠ n) (hm : m ≠ .panic) (hn : n ≠ .panic) (y z : Nat) : zoneIndex m y ≠ zoneIndex n z := by
  revert h hm hn
  cases m <;> cases n <;> simp [zoneIndex, Mode.code] <;> omega

/-- Another mode's entry is not read in the current mode (R134). -/
theorem zoneMinimum_of_other_entry {s : State} {m : Mode} (other : m ≠ s.mode) (hm : m ≠ .panic) (y : Nat) (v : ZoneMinimum)
    (zone : Nat) :
    State.zoneMinimum { s with config := { s.config with zoneMinimums := s.config.zoneMinimums.set (zoneIndex m y) v } } zone =
      s.zoneMinimum zone := by
  unfold State.zoneMinimum
  simp only []
  split
  · rfl
  · rename_i hs
    exact Table.get_set_ne _ _ _ (zoneIndex_ne other hm hs y zone)

theorem parkingPass_parkedLaw (s : State) : s.parkingPass.ParkedLaw := by
  intro k hk
  obtain ⟨h, _, rfl⟩ := List.mem_map.mp hk
  rfl

/-- What is in the pool after a touch: what was there, or the touched hold. -/
theorem mem_touchOn {rq : Placement} {rule : MergeRule} {f : Hold → Hold} {pool : List Hold} {c : Nat} {k : Hold}
    (hk : k ∈ touchOn rq rule f pool c) :
    k ∈ pool ∨ (∃ h ∈ pool, k = f h) ∨ ∃ slot, k = f (Hold.blank slot c rq (mergedOf rule (contributions pool c))) := by
  rcases touchOn_cases rq rule f pool c with ⟨h, hh, _, _, _, touched⟩ | ⟨slot, _, touched⟩ | touched
  · rw [touched, List.mem_append, List.mem_singleton] at hk
    rcases hk with hk | rfl
    · exact Or.inl (List.mem_filter.mp hk).1
    · exact Or.inr (Or.inl ⟨h, hh, rfl⟩)
  · rw [touched, List.mem_append, List.mem_singleton] at hk
    rcases hk with hk | rfl
    · exact Or.inl (List.mem_filter.mp hk).1
    · exact Or.inr (Or.inr ⟨slot, rfl⟩)
  · exact Or.inl (touched ▸ hk)

theorem parkedLaw_keepsReading : KeepsReading [.holds, .mode, .zones] State.ParkedLaw where
  congr s t same law h hh := by
    have holds : t.holds = s.holds := same .holds (by simp)
    have mode : t.mode = s.mode := same .mode (by simp)
    have zones : t.config.zoneMinimums = s.config.zoneMinimums := same .zones (by simp)
    have parks : t.parks h.zone = s.parks h.zone := by
      cases hz : h.zone <;> simp [State.parks, State.zoneClosed, State.zoneMinimum, mode, zones]
    rw [parks]
    exact law h (holds ▸ hh)
  startUp _ _ _ h hh := by cases hh
  restart _ _ h hh := by cases hh
  touch _ s rq rule f c gives _ _ parked _ law k hk := by
    have given (h : Hold) : (f h).parked = s.parks (f h).zone := by rw [gives.parked, gives.zone, parked]
    rcases mem_touchOn hk with hk | ⟨h, _, rfl⟩ | ⟨slot, rfl⟩
    · exact law k hk
    · exact given _
    · exact given _
  thin _ s pool th law k hk := by
    obtain ⟨h, hh, remains⟩ := th.mem hk
    rw [remains.parked, remains.zone]
    exact law h hh
  move _ s old new _ _ law k hk := by
    rcases mem_moveHolds hk with ⟨hk, _⟩ | ⟨h, hh, rfl⟩
    · exact law k hk
    · exact law h (mem_movedHolds.mp hh).1
  mode _ s m cause _ _ _ := parkingPass_parkedLaw _
  zoneMinimum _ s m z v hm law := by
    simp only []
    split
    · exact parkingPass_parkedLaw _
    · rename_i other
      intro h hh
      refine (law h hh).trans ?_
      cases hz : h.zone with
      | none => rfl
      | some zone => simp only [State.parks, State.zoneClosed, zoneMinimum_of_other_entry other hm]

/-- Settles O56: a touched hold is parked by its zone, other requests keep zone and parked field, and where the mode or an entry of the
current mode changes a parking pass follows. -/
theorem parkedLawKept : Obligations.ParkedLawKept := parkedLaw_keepsReading.keeps.step

/-! ## Slots, circuits and originators (R68) -/

/-- One hold to a slot, in slots 0–511, and one to a circuit and originator. -/
def PoolFits (pool : List Hold) : Prop :=
  (pool.map Hold.slot).Nodup ∧ (∀ h ∈ pool, h.slot < Config.poolSize) ∧ Unique pool

/-- What is left of distinct values after some items are gone is distinct. -/
theorem nodup_map_filterMap {α β : Type} {f : α → Option α} {g : α → β} {l : List α} (h : (l.map g).Nodup)
    (hf : ∀ x ∈ l, ∀ y, f x = some y → g y = g x) : ((l.filterMap f).map g).Nodup := by
  have sub : List.Sublist ((l.filterMap f).map g) (l.map g) := by
    clear h
    induction l with
    | nil => exact .slnil
    | cons x xs ih =>
      rw [List.forall_mem_cons] at hf
      cases hx : f x with
      | none =>
        rw [List.filterMap_cons_none hx]
        exact (ih hf.2).cons _
      | some y =>
        rw [List.filterMap_cons_some hx, List.map_cons, List.map_cons, hf.1 y hx]
        exact (ih hf.2).cons_cons _
  exact h.sublist sub

theorem PoolFits.thinned {pool after : List Hold} (fit : PoolFits pool) (th : Thinned Hold.Continues pool after) :
    PoolFits after := by
  have slots (k : Hold) (hk : k ∈ after) : k.slot < Config.poolSize := by
    obtain ⟨h, hh, goes⟩ := th.mem hk
    exact goes.slot ▸ fit.2.1 h hh
  obtain ⟨f, rfl, hf⟩ := th
  exact ⟨nodup_map_filterMap fit.1 fun h hh k hk => (hf h hh k hk).slot, slots,
    nodup_map_filterMap fit.2.2 fun h hh k hk => by rw [(hf h hh k hk).circuit, (hf h hh k hk).originator]⟩

theorem PoolFits.touched {pool : List Hold} (fit : PoolFits pool) {rq : Placement} {rule : MergeRule} {f : Hold → Hold}
    (gives : rq.Gives f) (c : Nat) : PoolFits (touchOn rq rule f pool c) := by
  have others : PoolFits (pool.filter fun x => !Hold.isOf c rq.originator x) :=
    fit.thinned ((Thinned.filter _ _).mono fun _ _ h => h.toContinues)
  have joined (k : Hold) (hc : k.circuit = c) (ho : k.originator = rq.originator) (hs : k.slot < Config.poolSize)
      (new : ∀ x ∈ pool, Hold.isOf c rq.originator x = false → x.slot ≠ k.slot) :
      PoolFits (pool.filter (fun x => !Hold.isOf c rq.originator x) ++ [k]) := by
    refine ⟨?_, ?_, unique_touch hc ho fit.2.2⟩
    · rw [List.map_append, List.map_singleton]
      refine others.1.append (List.nodup_singleton _) ?_
      simp only [List.disjoint_singleton, List.mem_map, List.mem_filter, not_exists, not_and]
      rintro x ⟨hx, hxo⟩
      exact new x hx (by simpa using hxo)
    · intro h hh
      rcases List.mem_append.mp hh with hh | hh
      · exact others.2.1 h hh
      · rw [List.mem_singleton.mp hh]
        exact hs
  rcases touchOn_cases rq rule f pool c with ⟨h, hh, hc, ho, found, touched⟩ | ⟨slot, free, touched⟩ | touched
  · rw [touched]
    refine joined (f h) ((gives.circuit h).trans hc) ((gives.originator h).trans ho) (gives.slot h ▸ fit.2.1 h hh) ?_
    intro x hx other same
    have : x = h := List.inj_on_of_nodup_map fit.1 hx hh (same.trans (gives.slot h))
    rw [this, isOf_iff.mpr ⟨hc, ho⟩] at other
    cases other
  · rw [touched]
    obtain ⟨hlt, unused, _⟩ := lowestFree_spec free
    refine joined _ (gives.circuit _) (gives.originator _) ?_ fun x hx _ => ?_
    · rw [gives.slot]
      exact hlt
    · rw [gives.slot]
      exact unused x hx
  · rwa [touched]

/-- The holds moved by a retarget keep their slots, and their originators have nothing on the new circuit (R89). -/
theorem PoolFits.moved {s : State} (fit : PoolFits s.holds) (old new : Nat) :
    PoolFits (s.moveHolds old new).holds := by
  have stay : PoolFits (s.holds.filter fun h => h.circuit != old) :=
    fit.thinned ((Thinned.filter _ _).mono fun _ _ h => h.toContinues)
  have left : PoolFits (movedHolds s.holds old new) := by
    rw [movedHolds, contributions, List.filter_filter]
    exact fit.thinned ((Thinned.filter _ _).mono fun _ _ h => h.toContinues)
  rw [State.moveHolds, State.setHolds_holds]
  refine ⟨?_, ?_, ?_⟩
  · rw [List.map_append, List.map_map]
    refine stay.1.append left.1 ?_
    intro slot hstay hleft
    obtain ⟨x, hx, rfl⟩ := List.mem_map.mp hstay
    obtain ⟨y, hy, hyx⟩ := List.mem_map.mp hleft
    obtain ⟨hys, hyo, _⟩ := mem_movedHolds.mp hy
    obtain ⟨hxs, hxo⟩ := List.mem_filter.mp hx
    have : y = x := List.inj_on_of_nodup_map fit.1 hys hxs hyx
    simp [← this, hyo] at hxo
  · intro k hk
    rcases mem_moveHolds hk with ⟨hk, _⟩ | ⟨h, hh, rfl⟩
    · exact fit.2.1 k hk
    · exact left.2.1 h hh
  · rw [Unique, List.map_append, List.map_map]
    have originators : ((movedHolds s.holds old new).map fun h => (new, h.originator)).Nodup := by
      have nodup : ((movedHolds s.holds old new).map fun h => (h.circuit, h.originator)).Nodup := left.2.2
      rw [List.nodup_map_iff_inj_on (List.Nodup.of_map _ nodup)]
      intro x hx y hy hxy
      refine List.inj_on_of_nodup_map nodup hx hy ?_
      rw [(mem_movedHolds.mp hx).2.1, (mem_movedHolds.mp hy).2.1]
      simpa using hxy
    refine stay.2.2.append originators ?_
    intro key hstay hleft
    obtain ⟨x, hx, rfl⟩ := List.mem_map.mp hstay
    obtain ⟨y, hy, hyx⟩ := List.mem_map.mp hleft
    obtain ⟨hc, ho⟩ := Prod.mk.inj hyx
    exact (mem_movedHolds.mp hy).2.2 x (List.mem_filter.mp hx).1 hc.symm ho.symm

theorem poolLaw_keepsReading : KeepsReading [.holds] State.PoolLaw where
  congr s t same law := by
    have holds : t.holds = s.holds := same .holds (by simp)
    rwa [State.PoolLaw, holds]
  startUp _ _ _ := ⟨List.nodup_nil, fun h hh => (by cases hh), List.nodup_nil⟩
  restart _ _ := ⟨List.nodup_nil, fun h hh => (by cases hh), List.nodup_nil⟩
  touch _ s rq rule f c gives _ _ _ _ law := PoolFits.touched law gives c
  thin _ s pool th law := PoolFits.thinned law (th.mono fun _ _ h => h.toContinues)
  move _ s old new _ _ law := PoolFits.moved law old new
  mode _ s m cause _ _ law := PoolFits.thinned law (changeMode_thinned s m cause)
  zoneMinimum _ s m z v _ law := by
    simp only []
    split
    · exact PoolFits.thinned law (parkingPass_thinned { s with config := _ })
    · exact law

/-- Settles O57: a touch keeps a found hold's slot or takes a free one, a retarget moves only holds whose originator has none on the
new circuit, and every other request only thins the pool. -/
theorem poolLawKept : Obligations.PoolLawKept := poolLaw_keepsReading.keeps.step

/-! ## Levels (R76, R113) -/

theorem greatest_cons (x : Nat) (l : List Nat) : greatest (x :: l) = max x (greatest l) := by
  have from_ (a : Nat) (l : List Nat) : l.foldl max a = max a (l.foldl max 0) := by
    induction l generalizing a with
    | nil => simp
    | cons y ys ih =>
      rw [List.foldl_cons, List.foldl_cons, ih (max a y), ih (max 0 y)]
      omega
  rw [greatest, List.foldl_cons, from_]
  simp [greatest]

theorem greatest_le {l : List Nat} {bound : Nat} : greatest l ≤ bound ↔ ∀ x ∈ l, x ≤ bound := by
  induction l with
  | nil => simp [greatest]
  | cons x xs ih => rw [greatest_cons, Nat.max_le, ih, List.forall_mem_cons]

theorem le_greatest {l : List Nat} {x : Nat} (hx : x ∈ l) : x ≤ greatest l := greatest_le.mp (Nat.le_refl _) x hx

/-- The greatest of a list is in it, or 0 where it is empty. -/
theorem greatest_mem (l : List Nat) : l = [] ∨ greatest l ∈ l := by
  induction l with
  | nil => exact Or.inl rfl
  | cons x xs ih =>
    refine Or.inr ?_
    rw [greatest_cons]
    rcases ih with rfl | ih
    · simp [greatest]
    · rcases Nat.le_total x (greatest xs) with h | h
      · rw [Nat.max_eq_right h]
        exact List.mem_cons_of_mem _ ih
      · rw [Nat.max_eq_left h]
        exact List.mem_cons_self

theorem mem_topHolds {list : List Hold} {h : Hold} (hh : h ∈ topHolds list) : h ∈ list :=
  (List.mem_filter.mp (List.mem_filter.mp hh).1).1

/-- The merged level lies within any bound of the holds' levels (R107 to R109). -/
theorem mergedOf_le {rule : MergeRule} {list : List Hold} {bound : Nat} (fit : ∀ h ∈ list, h.level ≤ bound) :
    mergedOf rule list ≤ bound := by
  have base : baseLevel rule list ≤ bound := by
    cases rule with
    | htp =>
      refine greatest_le.mpr fun x hx => ?_
      obtain ⟨h, hh, rfl⟩ := List.mem_map.mp hx
      exact fit h (mem_topHolds hh)
    | ltp =>
      unfold baseLevel
      simp only []
      cases hl : (topHolds list).getLast? with
      | none => exact Nat.zero_le _
      | some h => exact fit h (mem_topHolds (List.mem_of_getLast? hl))
  have pull : pullLevel list ≤ bound := by
    refine greatest_le.mpr fun x hx => ?_
    obtain ⟨h, hh, rfl⟩ := List.mem_map.mp hx
    exact fit h (List.mem_filter.mp hh).1
  exact Nat.max_le.mpr ⟨base, pull⟩

theorem levelsFit_default : Configuration.default.LevelsFit := by
  refine ⟨fun i => ?_, fun p x hx => ?_, fun c => ?_, by decide⟩
  · simp [Configuration.default, Binding.empty]
  · simp [Configuration.default, Preset.empty] at hx
  · simp [Configuration.default, CircuitAttrs.default]

theorem levelLaw_keepsReading : KeepsReading [.bindings, .presets, .attrs, .holdover, .store, .holds] State.LevelLaw where
  congr s t same law := by
    have bindings : t.config.bindings = s.config.bindings := same .bindings (by simp)
    have presets : t.config.presets = s.config.presets := same .presets (by simp)
    have attrs : t.config.circuits = s.config.circuits := same .attrs (by simp)
    have holdover : t.config.holdoverLevel = s.config.holdoverLevel := same .holdover (by simp)
    have holds : t.holds = s.holds := same .holds (by simp)
    refine ⟨configurations_edited (same .store (by simp)) (fun fit => ?_) law.1, by rw [holds]; exact law.2⟩
    rwa [Configuration.LevelsFit, bindings, presets, attrs, holdover]
  startUp s p law := ⟨configurations_startedFrom levelsFit_default law.1 p, fun h hh => by cases hh⟩
  restart s law := ⟨law.1, fun h hh => by cases hh⟩
  powerLoss _ s law := ⟨configurations_interrupted law.1, law.2⟩
  save _ s law := ⟨configurations_saving law.1, law.2⟩
  saved _ s snapshot since hw law := ⟨configurations_saved hw law.1, law.2⟩
  binding _ s i b hb law := by
    refine ⟨configurations_edited (s := s) rfl (fun fit => ⟨fun j => ?_, fit.2⟩) law.1, law.2⟩
    show ((s.setBinding i b).binding j).level ≤ 1000
    rw [State.binding_setBinding]
    split
    · rcases hb with hb | hb
      · exact hb
      · exact hb ▸ fit.1 i
    · exact fit.1 j
  preset _ s p v _ hv law := by
    refine ⟨configurations_edited (s := s) rfl (fun fit => ⟨fit.1, fun q => ?_, fit.2.2⟩) law.1, law.2⟩
    show EntryLevels ((s.setPreset p v).preset q).entries
    rw [State.preset_setPreset]
    split
    · exact hv (fit.2.1 p)
    · exact fit.2.1 q
  attrs _ s c a floor _ _ law := by
    refine ⟨configurations_edited (s := s) rfl (fun fit => ⟨fit.1, fit.2.1, fun d => ?_, fit.2.2.2⟩) law.1, law.2⟩
    show ((s.setAttrs c a).attrs d).floor ≤ 1000
    rw [State.attrs_setAttrs]
    split
    · rcases floor with floor | floor
      · exact floor
      · exact floor ▸ fit.2.2.1 c
    · exact fit.2.2.1 d
  holdoverLevel _ s l hl law := ⟨configurations_edited (s := s) rfl (fun fit => ⟨fit.1, fit.2.1, fit.2.2.1, hl⟩) law.1, law.2⟩
  touch _ s rq rule f c _ levels _ _ _ law := by
    refine ⟨law.1, fun k hk => ?_⟩
    have fit : s.config.LevelsFit := law.1 s.config (by simp [State.configurations])
    rcases mem_touchOn hk with hk | ⟨h, hh, rfl⟩ | ⟨slot, rfl⟩
    · exact law.2 k hk
    · exact levels fit h (law.2 h hh)
    · have merged : mergedOf rule (contributions s.holds c) ≤ 1000 :=
        mergedOf_le fun h hh => (law.2 h (mem_contributions.mp hh).1).1
      exact levels fit _ ⟨merged, merged, merged, fun r hr => by cases hr⟩
  thin _ s pool th law := by
    refine ⟨law.1, fun k hk => ?_⟩
    obtain ⟨h, hh, goes⟩ := th.mem hk
    exact goes.levels (law.2 h hh)
  move _ s old new _ _ law := by
    refine ⟨law.1, fun k hk => ?_⟩
    rcases mem_moveHolds hk with ⟨hk, _⟩ | ⟨h, hh, rfl⟩
    · exact law.2 k hk
    · exact law.2 h (mem_movedHolds.mp hh).1
  mode _ s m cause _ _ law := by
    refine ⟨law.1, fun k hk => ?_⟩
    obtain ⟨h, hh, goes⟩ := (changeMode_thinned s m cause).mem hk
    exact goes.levels (law.2 h hh)
  zoneMinimum _ s m z v _ law := by
    simp only []
    have edited := configurations_edited (Q := Configuration.LevelsFit) (s := s)
      (t := { s with config := { s.config with zoneMinimums := s.config.zoneMinimums.set (zoneIndex m z) v } }) rfl id law.1
    split
    · refine ⟨edited, fun k hk => ?_⟩
      obtain ⟨h, hh, goes⟩ := (parkingPass_thinned { s with config := _ }).mem hk
      exact goes.levels (law.2 h hh)
    · exact ⟨edited, law.2⟩

/-- Settles O60: every configured level passes a check, a created hold starts at the merged level, and a fade or a ramp stays between its
ends. -/
theorem levelLawKept : Obligations.LevelLawKept := levelLaw_keepsReading.keeps.step

end Sys2Proof.Machine
end

section
/-! What a change of enrolled, a restart of a loop, a reply and a miss make of each station's live half, and the laws that read it:
momentary holds (R74) and images (R35). -/
namespace Sys2Proof.Machine

/-! ## The live halves -/

/-- The live half after a change of enrolled (R21). -/
def StationLive.adjusted (v : StationLive) (was now : Bool) : StationLive :=
  if was = false ∧ now = true then v.enrolling else if was = true ∧ now = false then v.unenrolling else v

/-- The live half after a miss (R28). -/
def StationLive.missed (v : StationLive) (enrolled : Bool) : StationLive :=
  if enrolled then if v.missCount = 2 then v.silenced else { v with missCount := min 3 (v.missCount + 1) }
  else if v.presence = .heard then
    if 2 ≤ v.missCount then { v with missCount := 0, presence := .unknown } else { v with missCount := v.missCount + 1 }
  else v

namespace State

variable (s : State)

theorem setLive_live_self (n m : Nat) : (s.setLive n (s.live n)).live m = s.live m := by
  rw [live_setLive]
  split
  · rename_i h
    rw [h.1]
  · rfl

theorem live_adjustEnrollment (n m : Nat) (was now : Bool) :
    (s.adjustEnrollment n was now).live m =
      if n = m ∧ m < 128 then (s.live n).adjusted was now else s.live m := by
  rw [← live_setLive]
  unfold adjustEnrollment StationLive.adjusted
  split
  · unfold StationLive.enrolling
    split
    · rfl
    · exact (setLive_live_self s n m).symm
  · split
    · rfl
    · exact (setLive_live_self s n m).symm

theorem holds_adjustEnrollment (n : Nat) (was now : Bool) :
    (s.adjustEnrollment n was now).holds =
      if was = true ∧ now = false then releaseWhere (Hold.isMomentaryOf n) s.holds else s.holds := by
  unfold adjustEnrollment
  cases was <;> cases now <;> simp only [reduceCtorEq, and_true, and_false, and_self, if_true, if_false]
  · split <;> rfl
  · rfl

theorem events_adjustEnrollment (n : Nat) (was now : Bool) :
    (s.adjustEnrollment n was now).events =
      if was = false ∧ now = true ∧ (s.live n).presence = .heard then (s.latchStation n).events else s.events := by
  unfold adjustEnrollment
  cases was <;> cases now <;> simp only [reduceCtorEq, true_and, false_and, and_true, and_false, and_self, if_true, if_false]
  · split <;> rfl
  · rfl

theorem slot_adjustEnrollment (n m : Nat) (was now : Bool) : (s.adjustEnrollment n was now).slot m = s.slot m := by
  rw [adjustEnrollment_frame]
  rfl

theorem live_endPoll (loop : Loop) (m : Nat) : (s.endPoll loop).live m = s.live m := by
  cases loop <;> rfl

/-- A valid reply writes the live half of the polled station alone (R25, R27). -/
theorem live_takeReply_if (loop : Loop) (p : PollSent) (m : Nat) :
    (s.takeReply loop p).live m =
      if stationNumber loop p.address = m ∧ m < 128 then
        ((s.live m).received p (s.slot m).enrolled (s.image m)).replied (s.slot m).enrolled
      else s.live m := by
  have written : (s.takeReply loop p).live m = ((s.endPoll loop).setLive (stationNumber loop p.address)
      (((s.live (stationNumber loop p.address)).received p (s.slot (stationNumber loop p.address)).enrolled
        (s.image (stationNumber loop p.address))).replied (s.slot (stationNumber loop p.address)).enrolled)).live m := by
    simp only [takeReply]
    split <;> rfl
  rw [written, live_setLive, live_endPoll]
  split
  · rename_i h
    rw [h.1]
  · rfl

/-- A miss writes the live half of the polled station alone (R28). -/
theorem live_takeMiss (loop : Loop) (p : PollSent) (m : Nat) :
    (s.takeMiss loop p).live m =
      if stationNumber loop p.address = m ∧ m < 128 then (s.live m).missed (s.slot m).enrolled else s.live m := by
  have written : (s.takeMiss loop p).live m = ((s.endPoll loop).setLive (stationNumber loop p.address)
      ((s.live (stationNumber loop p.address)).missed (s.slot (stationNumber loop p.address)).enrolled)).live m := by
    have unwritten : (s.endPoll loop).live m =
        ((s.endPoll loop).setLive (stationNumber loop p.address) (s.live (stationNumber loop p.address))).live m := by
      rw [← live_endPoll s loop (stationNumber loop p.address)]
      exact (setLive_live_self _ _ _).symm
    simp only [takeMiss, StationLive.missed]
    split
    · split <;> rfl
    · split
      · split <;> rfl
      · exact unwritten
  rw [written, live_setLive, live_endPoll]
  split
  · rename_i h
    rw [h.1]
  · rfl

/-- The third miss in a row of an enrolled station releases its momentary holds (R29); no other miss touches the pool. -/
theorem holds_takeMiss (loop : Loop) (p : PollSent) :
    (s.takeMiss loop p).holds =
      if (s.slot (stationNumber loop p.address)).enrolled = true ∧ (s.live (stationNumber loop p.address)).missCount = 2 then
        releaseWhere (Hold.isMomentaryOf (stationNumber loop p.address)) s.holds
      else s.holds := by
  have ended : (s.endPoll loop).holds = s.holds := by cases loop <;> rfl
  simp only [takeMiss]
  by_cases enrolled : (s.slot (stationNumber loop p.address)).enrolled = true
  · by_cases third : (s.live (stationNumber loop p.address)).missCount = 2
    · rw [if_pos enrolled, if_pos third, if_pos ⟨enrolled, third⟩, ← ended]
      rfl
    · rw [if_pos enrolled, if_neg third, if_neg fun h => third h.2, ← ended]
      rfl
  · have other : ¬((s.slot (stationNumber loop p.address)).enrolled = true ∧
        (s.live (stationNumber loop p.address)).missCount = 2) := fun h => enrolled h.1
    rw [if_neg enrolled, if_neg other, ← ended]
    split
    · split <;> rfl
    · rfl

/-- A restart of a loop empties the live halves of its stations (R39). -/
theorem live_restartLoop (loop : Loop) (m : Nat) :
    (s.restartLoop loop).live m = if loopOf m = loop ∧ m < 128 then StationLive.fresh (s.slot m).enrolled else s.live m := by
  have fresh : (s.restartLoop loop).live m = (s.freshStations (fun l => l == loop)).live m := by cases loop <;> rfl
  rw [fresh, live, freshStations]
  simp only []
  rw [Table.get_mapNumbered _ _ _ (StationLive.fresh false)]
  by_cases h : m < 128
  · simp only [h, if_true, and_true, beq_iff_eq]
    rfl
  · rw [if_neg h, if_neg fun hm => h hm.2, live_beyond s (Nat.le_of_not_lt h)]

theorem slot_restartLoop (loop : Loop) (m : Nat) : (s.restartLoop loop).slot m = s.slot m := by
  rw [restartLoop_frame]
  rfl

theorem holds_restartLoop (loop : Loop) :
    (s.restartLoop loop).holds = releaseWhere (Hold.isMomentaryOn loop) s.holds := by
  cases loop <;> rfl

theorem slot_takeReply (loop : Loop) (p : PollSent) (m : Nat) : (s.takeReply loop p).slot m = s.slot m := by
  rw [takeReply_frame]
  rfl

theorem slot_takeMiss (loop : Loop) (p : PollSent) (m : Nat) : (s.takeMiss loop p).slot m = s.slot m := by
  rw [takeMiss_frame]
  rfl

end State

theorem StationLive.received_presence (v : StationLive) (p : PollSent) (enrolled : Bool) (image : List Indicator) :
    (v.received p enrolled image).presence = v.presence := by
  unfold StationLive.received
  split <;> rfl

/-- After a valid reply an enrolled station is ONLINE, an unenrolled one HEARD (R27). -/
theorem StationLive.replied_presence (v : StationLive) (enrolled : Bool) :
    (v.replied enrolled).presence = if enrolled then .online else .heard := by
  unfold StationLive.replied
  cases enrolled
  · rfl
  · simp only [if_true]
    split <;> rfl

/-- The live halves after a start-up and after RESTART (R19). -/
theorem live_tabulated {t : State} (slots : ∀ n, (t.slot n).enrolled = true → n < 128)
    (stations : t.stations = Table.tabulate 128 fun n => StationLive.fresh (t.slot n).enrolled) (n : Nat) :
    t.live n = StationLive.fresh (t.slot n).enrolled := by
  rw [State.live, stations, Table.get_tabulate]
  split
  · rfl
  · rename_i beyond
    rw [Bool.eq_false_iff.mpr fun on => beyond (slots n on)]

theorem enrolled_lt {s : State} {n : Nat} (on : (s.slot n).enrolled = true) : n < 128 := by
  by_contra h
  rw [State.slot_beyond s (Nat.le_of_not_lt h)] at on
  cases on

theorem live_startedFrom (s : State) (store : Store) (p : Bool) (n : Nat) :
    (s.startedFrom store p).live n = StationLive.fresh ((s.startedFrom store p).slot n).enrolled :=
  live_tabulated (fun _ => enrolled_lt) rfl n

theorem live_restarted (s : State) (n : Nat) : s.restarted.live n = StationLive.fresh (s.slot n).enrolled :=
  live_tabulated (t := s.restarted) (fun _ => enrolled_lt) rfl n

/-! ## Momentary holds (R74) -/

/-- The presence of one station, as R19 allows it. -/
def PresenceFits (enrolled : Bool) (presence : Presence) : Prop :=
  if enrolled then presence ≠ .heard else presence = .unknown ∨ presence = .heard

theorem presenceFits_fresh (enrolled : Bool) : PresenceFits enrolled (StationLive.fresh enrolled).presence := by
  cases enrolled <;> simp [PresenceFits, StationLive.fresh]

theorem presenceFits_adjusted {v : StationLive} {was : Bool} (now : Bool) (fit : PresenceFits was v.presence) :
    PresenceFits now (v.adjusted was now).presence := by
  obtain ⟨presence, missCount, expected, lastImage, imagePending, forced, deny, answer⟩ := v
  cases was <;> cases now <;> cases presence <;>
    simp_all [PresenceFits, StationLive.adjusted, StationLive.enrolling, StationLive.unenrolling]

theorem presenceFits_missed {v : StationLive} {enrolled : Bool} (fit : PresenceFits enrolled v.presence) :
    PresenceFits enrolled (v.missed enrolled).presence := by
  unfold StationLive.missed
  split
  · rename_i on
    rw [on] at fit ⊢
    split
    · simp [PresenceFits, StationLive.silenced]
    · exact fit
  · rename_i off
    rw [Bool.eq_false_iff.mpr off] at fit ⊢
    split
    · split
      · exact Or.inl rfl
      · exact fit
    · exact fit

/-- Every live momentary hold that is left was there, and its station is still ONLINE. -/
theorem momentary_thinned {s t : State} (law : s.MomentaryLaw) (th : Thinned Hold.Continues s.holds t.holds)
    (online : ∀ k ∈ t.holds, k.kind = .momentary → k.isLive = true → ∀ n, k.lastStation = some n →
      (s.live n).presence = .online → (t.live n).presence = .online) :
    ∀ k ∈ t.holds, k.kind = .momentary → k.isLive = true → ∃ n, k.lastStation = some n ∧ (t.live n).presence = .online := by
  intro k hk kind live
  obtain ⟨h, hh, goes⟩ := th.mem hk
  obtain ⟨n, station, was⟩ := law.2 h hh (goes.kind ▸ kind) (goes.live live)
  have last : k.lastStation = some n := goes.lastStation.trans station
  exact ⟨n, last, online k hk kind live n last was⟩

theorem Thinned.continues {pool after : List Hold} (th : Thinned Hold.Remains pool after) : Thinned Hold.Continues pool after :=
  th.mono fun _ _ h => h.toContinues

/-- After a station's momentary holds are released no live one is left of it (R29). -/
theorem not_momentaryOf_of_released {pool : List Hold} {n : Nat} {k : Hold} (hk : k ∈ releaseWhere (Hold.isMomentaryOf n) pool)
    (kind : k.kind = .momentary) (live : k.isLive = true) : k.lastStation ≠ some n := by
  intro last
  have other := not_selected_of_mem_releaseWhere hk live
  simp [Hold.isMomentaryOf, kind, last] at other

theorem momentaryLaw_keepsReading : KeepsReading [.slots, .presences, .holds] State.MomentaryLaw where
  congr s t same law := by
    have slots : t.config.stations = s.config.stations := same .slots (by simp)
    have presences : (fun n => (t.live n).presence) = fun n => (s.live n).presence := same .presences (by simp)
    have holds : t.holds = s.holds := same .holds (by simp)
    have presence (n : Nat) : (t.live n).presence = (s.live n).presence := congrFun presences n
    refine ⟨fun n => ?_, fun h hh => ?_⟩
    · rw [State.slot, slots, presence]
      exact law.1 n
    · simp only [presence]
      exact law.2 h (holds ▸ hh)
  startUp s p _ := by
    refine ⟨fun n => ?_, fun h hh => by cases hh⟩
    rw [live_startedFrom]
    exact presenceFits_fresh _
  restart s _ := by
    refine ⟨fun n => ?_, fun h hh => by cases hh⟩
    rw [live_restarted]
    exact presenceFits_fresh _
  slot _ s n c hn law := by
    have live (m : Nat) := State.live_adjustEnrollment (s.setSlot n c) n m (s.slot n).enrolled c.enrolled
    refine ⟨fun m => ?_, momentary_thinned law (adjustEnrollment_thinned _ _ _ _).continues ?_⟩
    · show PresenceFits _ _
      rw [live, State.slot_adjustEnrollment, State.slot_setSlot]
      split
      · exact presenceFits_adjusted c.enrolled (law.1 n)
      · exact law.1 m
    · intro k hk kind alive m last was
      rw [live]
      split
      · rename_i hm
        obtain ⟨rfl, _⟩ := hm
        show ((s.live n).adjusted (s.slot n).enrolled c.enrolled).presence = .online
        rw [State.holds_adjustEnrollment] at hk
        unfold StationLive.adjusted
        split
        · unfold StationLive.enrolling
          split
          · rfl
          · exact was
        split
        · rename_i out
          rw [if_pos out] at hk
          exact absurd last (not_momentaryOf_of_released hk kind alive)
        · exact was
      · exact was
  loopRestart _ s loop law := by
    refine ⟨fun m => ?_, momentary_thinned law (restartLoop_thinned s loop).continues ?_⟩
    · show PresenceFits _ _
      rw [State.live_restartLoop, State.slot_restartLoop]
      split
      · exact presenceFits_fresh _
      · exact law.1 m
    · intro k hk kind alive m last was
      rw [State.holds_restartLoop] at hk
      have other := not_selected_of_mem_releaseWhere hk alive
      rw [State.live_restartLoop, if_neg]
      · exact was
      · rintro ⟨rfl, _⟩
        simp [Hold.isMomentaryOn, kind, last] at other
  reply _ s loop p law := by
    have presence (m : Nat) : ((s.takeReply loop p).live m).presence =
        if stationNumber loop p.address = m ∧ m < 128 then if (s.slot m).enrolled then .online else .heard
        else (s.live m).presence := by
      rw [State.live_takeReply_if, apply_ite StationLive.presence, StationLive.replied_presence]
    have pool : (s.takeReply loop p).holds = s.holds := by
      rw [State.takeReply_frame]
    refine ⟨fun m => ?_, fun k hk kind alive => ?_⟩
    · show PresenceFits _ _
      rw [presence, State.slot_takeReply]
      split
      · cases (s.slot m).enrolled <;> simp [PresenceFits]
      · exact law.1 m
    · rw [pool] at hk
      obtain ⟨m, last, was⟩ := law.2 k hk kind alive
      refine ⟨m, last, ?_⟩
      rw [presence]
      split
      · have fits := law.1 m
        cases enrolled : (s.slot m).enrolled
        · simp [enrolled, was] at fits
        · rfl
      · exact was
  miss _ s loop p law := by
    refine ⟨fun m => ?_, momentary_thinned law (takeMiss_thinned s loop p).continues ?_⟩
    · show PresenceFits _ _
      rw [State.live_takeMiss, State.slot_takeMiss]
      split
      · exact presenceFits_missed (law.1 m)
      · exact law.1 m
    · intro k hk kind alive m last was
      rw [State.live_takeMiss]
      split
      · rename_i hm
        obtain ⟨rfl, _⟩ := hm
        rw [State.holds_takeMiss] at hk
        unfold StationLive.missed
        split
        · rename_i enrolled
          split
          · rename_i third
            rw [if_pos ⟨enrolled, third⟩] at hk
            exact absurd last (not_momentaryOf_of_released hk kind alive)
          · exact was
        · rw [if_neg (by rw [was]; decide)]
          exact was
      · exact was
  touch _ s rq rule f c gives _ _ _ momentary law := by
    refine ⟨law.1, fun k hk kind alive => ?_⟩
    rcases mem_touchOn hk with hk | ⟨h, _, rfl⟩ | ⟨slot, rfl⟩
    · exact law.2 k hk kind alive
    · rw [gives.lastStation]
      exact momentary h kind
    · rw [gives.lastStation]
      exact momentary _ kind
  thin _ s pool th law := ⟨law.1, momentary_thinned law th.continues fun _ _ _ _ _ _ was => was⟩
  move _ s old new _ _ law := by
    refine ⟨law.1, fun k hk => ?_⟩
    rcases mem_moveHolds hk with ⟨hk, _⟩ | ⟨h, hh, rfl⟩
    · exact law.2 k hk
    · exact law.2 h (mem_movedHolds.mp hh).1
  mode _ s m cause _ _ law :=
    ⟨law.1, momentary_thinned law (changeMode_thinned s m cause) fun _ _ _ _ _ _ was => was⟩
  zoneMinimum _ s m z v _ law := by
    simp only []
    split
    · exact ⟨law.1, momentary_thinned law (parkingPass_thinned { s with config := _ }) fun _ _ _ _ _ _ was => was⟩
    · exact law

/-- Settles O58: a momentary hold is placed for an ONLINE station, and whatever takes a station from ONLINE releases its momentary
holds with it. -/
theorem momentaryLawKept : Obligations.MomentaryLawKept := momentaryLaw_keepsReading.keeps.step

/-! ## Images (R35) -/

/-- An action that leaves what a station's image is computed from, its last-sent image and its image pending. -/
theorem imageLaw_congr {s t : State} (inputs : ∀ n, t.imageInputs n = s.imageInputs n)
    (last : ∀ n, (t.live n).lastImage = (s.live n).lastImage) (pending : ∀ n, (t.live n).imagePending = (s.live n).imagePending)
    (law : s.ImageLaw) : t.ImageLaw := by
  intro n
  have enrolled : (t.slot n).enrolled = (s.slot n).enrolled := congrArg ImageInputs.enrolled (inputs n)
  rw [State.image, inputs, enrolled, last, pending]
  exact law n

/-- A recomputation meets the law where it is made; elsewhere the station has to meet it already. -/
theorem imageLaw_recomputed {s after : State}
    (enrolled : ∀ n, (after.slot n).enrolled = true → after.imageInputs n = s.imageInputs n →
      after.image n ≠ (after.live n).lastImage → (after.live n).imagePending = true)
    (unenrolled : ∀ n, (after.slot n).enrolled = false → (after.live n).imagePending = false) :
    (s.recomputeImages after).ImageLaw := by
  intro n
  show if (after.slot n).enrolled then
      after.image n ≠ ((s.recomputeImages after).live n).lastImage → ((s.recomputeImages after).live n).imagePending = true
    else ((s.recomputeImages after).live n).imagePending = false
  rw [State.live_recomputeImages, State.recomputeOne]
  cases on : (after.slot n).enrolled with
  | false => simpa using unenrolled n on
  | true =>
    rw [if_pos rfl]
    split
    · unfold StationLive.recomputed
      split
      · exact fun _ => rfl
      · rename_i equal
        intro differs
        split at differs
        · exact absurd differs equal
        · exact absurd differs equal
    · rename_i same
      exact enrolled n on (by simpa using same)

/-- A recomputation after an action that leaves the stations alone. -/
theorem imageLaw_after {s after : State} (slots : after.config.stations = s.config.stations)
    (stations : after.stations = s.stations) (law : s.ImageLaw) : (s.recomputeImages after).ImageLaw := by
  have live (n : Nat) : after.live n = s.live n := by rw [State.live, stations, State.live]
  have slot (n : Nat) : after.slot n = s.slot n := by rw [State.slot, slots, State.slot]
  refine imageLaw_recomputed (fun n on inputs differs => ?_) fun n off => ?_
  · rw [live] at differs ⊢
    rw [State.image, inputs] at differs
    have lawful := law n
    rw [slot] at on
    rw [on] at lawful
    exact lawful differs
  · rw [live]
    have lawful := law n
    rw [slot] at off
    rw [off] at lawful
    simpa using lawful

/-- An accepted edit of R174's list. -/
theorem imageLaw_edited {s after : State} (slots : after.config.stations = s.config.stations)
    (stations : after.stations = s.stations) (law : s.ImageLaw) : (s.recomputeImages after.discardContinuation).ImageLaw := by
  rw [State.discardContinuation_frame]
  exact imageLaw_after (after := { after with sweeper := after.sweeper.afterEdit }) slots stations law

/-- A write of the live half that keeps the last-sent image and image pending. -/
theorem imageLaw_setLive {s : State} (n : Nat) {v : StationLive} (last : v.lastImage = (s.live n).lastImage)
    (pending : v.imagePending = (s.live n).imagePending) (law : s.ImageLaw) : (s.setLive n v).ImageLaw := by
  refine imageLaw_congr (s := s) (fun _ => rfl) (fun m => ?_) (fun m => ?_) law
  · rw [State.live_setLive]
    split
    · rename_i h
      rw [last, h.1]
    · rfl
  · rw [State.live_setLive]
    split
    · rename_i h
      rw [pending, h.1]
    · rfl

theorem imageLaw_setLoop {s : State} (loop : Loop) (v : LoopState) (law : s.ImageLaw) : (s.setLoop loop v).ImageLaw := by
  cases loop <;> exact law

/-- The mark that R48 reads is the same: a target lists the same circuits. -/
theorem mapMoving_congr {s t : State} (moving : ∀ c, (t.circuit c).moving = (s.circuit c).moving) : t.mapMoving = s.mapMoving := by
  funext l
  unfold State.mapMoving
  congr 1
  funext x
  simp only [State.mapOne, moving]

/-- Fault counts are no input of an image. -/
theorem imageInputs_of_moving {s : State} {circuits : Table CircuitLive 384}
    (moving : ∀ c, (State.circuit { s with circuits := circuits } c).moving = (s.circuit c).moving) (n : Nat) :
    State.imageInputs { s with circuits := circuits } n = s.imageInputs n := by
  unfold State.imageInputs State.controlInputs State.mappedTargets
  rw [mapMoving_congr moving]
  rfl

/-- Where a station's live half is fresh, its image is pending exactly where it is enrolled (R19). -/
theorem imageLaw_of_fresh {t : State} (fresh : ∀ n, t.live n = StationLive.fresh (t.slot n).enrolled) : t.ImageLaw := by
  intro n
  rw [fresh]
  cases (t.slot n).enrolled
  · rfl
  · exact fun _ => rfl

theorem imageLaw_slot {s : State} {n : Nat} (c : StationConfig) (hn : n < 128) (law : s.ImageLaw) :
    (s.recomputeImages ((s.setSlot n c).adjustEnrollment n (s.slot n).enrolled c.enrolled)).ImageLaw := by
  have live (m : Nat) := State.live_adjustEnrollment (s.setSlot n c) n m (s.slot n).enrolled c.enrolled
  have slot (m : Nat) : ((s.setSlot n c).adjustEnrollment n (s.slot n).enrolled c.enrolled).slot m =
      if n = m ∧ m < 128 then c else s.slot m := by
    rw [State.slot_adjustEnrollment, State.slot_setSlot]
  refine imageLaw_recomputed (fun m on inputs differs => ?_) fun m off => ?_
  · have was : (s.slot m).enrolled = true := (congrArg ImageInputs.enrolled inputs).symm.trans on
    have kept : ((s.setSlot n c).adjustEnrollment n (s.slot n).enrolled c.enrolled).live m = s.live m := by
      rw [live]
      split
      · rename_i h
        obtain ⟨rfl, _⟩ := h
        rw [slot, if_pos ⟨rfl, hn⟩] at on
        simp only [StationLive.adjusted, on, was, reduceCtorEq, and_false, false_and, if_false]
        rfl
      · rfl
    rw [kept] at differs ⊢
    rw [State.image, inputs] at differs
    have lawful := law m
    rw [was] at lawful
    exact lawful differs
  · rw [live]
    rw [slot] at off
    split
    · rename_i h
      obtain ⟨rfl, _⟩ := h
      rw [if_pos ⟨rfl, hn⟩] at off
      have lawful := law n
      show ((s.live n).adjusted (s.slot n).enrolled c.enrolled).imagePending = false
      cases was : (s.slot n).enrolled
      · rw [was] at lawful
        simpa [StationLive.adjusted, off] using lawful
      · simp [StationLive.adjusted, off, StationLive.unenrolling]
    · rename_i h
      rw [if_neg h] at off
      have lawful := law m
      rw [off] at lawful
      show (s.live m).imagePending = false
      simpa using lawful

theorem imageLaw_restartLoop {s : State} (loop : Loop) (law : s.ImageLaw) : (s.recomputeImages (s.restartLoop loop)).ImageLaw := by
  refine imageLaw_recomputed (fun m on inputs differs => ?_) fun m off => ?_
  · rw [State.live_restartLoop] at differs ⊢
    rw [State.slot_restartLoop] at on
    split
    · rw [on]
      rfl
    · rename_i h
      rw [if_neg h, State.image, inputs] at differs
      have lawful := law m
      rw [on] at lawful
      exact lawful differs
  · rw [State.live_restartLoop]
    rw [State.slot_restartLoop] at off
    split
    · rw [off]
      rfl
    · have lawful := law m
      rw [off] at lawful
      simpa using lawful

/-- What R35 asks of one station's live half. -/
def StationLive.ImageFits (v : StationLive) (enrolled : Bool) (image : List Indicator) : Prop :=
  if enrolled then image ≠ v.lastImage → v.imagePending = true else v.imagePending = false

theorem StationLive.imageFits_received {v : StationLive} {enrolled : Bool} {image : List Indicator} (p : PollSent)
    (fits : v.ImageFits enrolled image) : (v.received p enrolled image).ImageFits enrolled image := by
  unfold StationLive.received
  split
  · cases enrolled <;> simp [StationLive.ImageFits]
  · exact fits

theorem StationLive.imageFits_replied {v : StationLive} {enrolled : Bool} {image : List Indicator}
    (fits : v.ImageFits enrolled image) : (v.replied enrolled).ImageFits enrolled image := by
  cases enrolled
  · exact fits
  · unfold StationLive.replied
    rw [if_pos rfl]
    split
    · exact fun _ => rfl
    · exact fits

theorem imageLaw_takeReply {s : State} (loop : Loop) (p : PollSent) (law : s.ImageLaw) : (s.takeReply loop p).ImageLaw := by
  intro m
  have image : (s.takeReply loop p).image m = s.image m := by
    rw [State.takeReply_frame]
    rfl
  show ((s.takeReply loop p).live m).ImageFits _ _
  rw [State.live_takeReply_if, State.slot_takeReply, image]
  split
  · exact StationLive.imageFits_replied (StationLive.imageFits_received p (law m))
  · exact law m

theorem imageLaw_takeReport {s : State} (loop : Loop) (n : Nat) (bit : Bool) (ts : List Transition) (law : s.ImageLaw) :
    (s.takeReport loop n bit ts).ImageLaw := by
  unfold State.takeReport
  simp only []
  split
  · refine imageLaw_setLive n ?_ ?_ law <;> (unfold StationLive.unenrolledReport; split <;> rfl)
  split
  · exact imageLaw_setLive n rfl rfl law
  split
  · exact imageLaw_setLive (v := { s.live n with answer := .ack bit, expected := some (!bit) }) n rfl rfl law
  · exact imageLaw_setLive n rfl rfl law

/-- A miss keeps the last-sent image and image pending. -/
theorem missed_image (v : StationLive) (enrolled : Bool) :
    (v.missed enrolled).lastImage = v.lastImage ∧ (v.missed enrolled).imagePending = v.imagePending := by
  unfold StationLive.missed
  split
  · split <;> exact ⟨rfl, rfl⟩
  · split
    · split <;> exact ⟨rfl, rfl⟩
    · exact ⟨rfl, rfl⟩

theorem imageLaw_takeMiss {s : State} (loop : Loop) (p : PollSent) (law : s.ImageLaw) :
    (s.recomputeImages (s.takeMiss loop p)).ImageLaw := by
  have kept (m : Nat) : ((s.takeMiss loop p).live m).lastImage = (s.live m).lastImage ∧
      ((s.takeMiss loop p).live m).imagePending = (s.live m).imagePending := by
    rw [State.live_takeMiss]
    split
    · exact missed_image _ _
    · exact ⟨rfl, rfl⟩
  refine imageLaw_recomputed (fun m on inputs differs => ?_) fun m off => ?_
  · rw [(kept m).1, State.image, inputs] at differs
    rw [(kept m).2]
    have lawful := law m
    rw [State.slot_takeMiss] at on
    rw [on] at lawful
    exact lawful differs
  · rw [(kept m).2]
    have lawful := law m
    rw [State.slot_takeMiss] at off
    rw [off] at lawful
    simpa using lawful

theorem imageLaw_keeps : Keeps State.ImageLaw where
  frame _ _ _ _ law := law
  startUp s p _ := imageLaw_of_fresh (live_startedFrom s _ p)
  powerLoss _ law := law
  writeSense _ _ _ _ law := law
  clearSense _ law := law
  clearRefusal _ law := law
  clearEvents _ law := law
  mask _ _ law := law
  restart s _ := imageLaw_of_fresh (live_restarted s)
  save _ law := law
  saved _ _ _ _ law := law
  slot s n c usable _ _ _ _ law := imageLaw_slot c (by simp [stationUsable] at usable; omega) law
  loopRestart _ loop law := imageLaw_restartLoop loop law
  discard s law := by
    rw [State.discardContinuation_frame]
    exact law
  binding _ _ _ _ _ _ law := imageLaw_edited rfl rfl law
  attrs _ _ _ _ _ _ _ _ law := imageLaw_edited rfl rfl law
  retire _ _ _ _ _ law := imageLaw_edited rfl rfl law
  restore _ _ _ _ law := imageLaw_edited rfl rfl law
  groupAdd _ _ _ _ _ _ _ _ law := imageLaw_edited rfl rfl law
  groupRemove _ _ _ _ _ law := imageLaw_edited rfl rfl law
  presetReplace _ _ _ _ _ _ _ _ _ _ law := imageLaw_edited rfl rfl law
  presetAppend _ _ _ _ _ _ _ _ _ _ law := imageLaw_edited rfl rfl law
  presetRemove _ _ _ _ _ law := imageLaw_edited rfl rfl law
  presetAttr _ _ _ _ _ _ _ _ law := imageLaw_edited rfl rfl law
  place _ _ _ _ _ _ _ _ law := imageLaw_after rfl rfl law
  ramps _ _ _ _ _ _ _ law := imageLaw_after rfl rfl law
  toggleOff _ _ _ _ _ _ _ law := imageLaw_after rfl rfl law
  release _ _ law := imageLaw_after rfl rfl law
  stopRamps _ _ _ law := imageLaw_after rfl rfl law
  mode _ _ _ _ _ law := imageLaw_after rfl rfl law
  recompute _ law := imageLaw_after rfl rfl law
  panicInput s law := by
    rw [State.enterPanic_frame]
    exact imageLaw_after rfl rfl law
  panicInputOff _ law := law
  zoneMinimum s m z v _ _ law := by
    simp only []
    split <;> exact imageLaw_after rfl rfl law
  holdoverLevel _ _ _ law := imageLaw_after rfl rfl law
  lock _ _ _ law := law
  lockFree _ _ law := law
  lapse s cause law := by
    rw [State.lapse_frame]
    exact imageLaw_after rfl rfl law
  retarget _ _ _ _ _ _ _ _ law := imageLaw_after rfl rfl law
  reissue _ _ _ _ _ _ law := imageLaw_after rfl rfl law
  visit s job _ law := by
    rw [State.visit_frame]
    exact imageLaw_after rfl rfl law
  abort _ _ _ law := imageLaw_after rfl rfl law
  poll s loop a _ _ law := imageLaw_setLoop loop _ (imageLaw_setLive _ rfl rfl law)
  discovery s loop a _ _ law := imageLaw_setLoop loop _ (imageLaw_setLive _ rfl rfl law)
  newRound _ loop _ law := imageLaw_setLoop loop _ law
  reply _ loop p _ law := imageLaw_takeReply loop p law
  report _ loop n bit ts law := imageLaw_takeReport loop n bit ts law
  miss _ loop p _ law := imageLaw_takeMiss loop p law
  takeEntry s law := by
    rw [takeEntry_frame]
    exact law
  refusePress s e r law := imageLaw_setLive (s := s) e.station rfl rfl law
  fadeStep _ _ law := imageLaw_after rfl rfl law
  minute _ _ law := imageLaw_after rfl rfl law
  refresh _ _ _ _ law := law
  status s r entries _ _ _ law := by
    rw [State.countFaults_frame, State.rackReplied_frame]
    exact imageLaw_after rfl rfl law
  rackMiss s r _ law := by
    rw [State.rackMissed_frame]
    exact law
  faultMinute s t law := imageLaw_congr
    (imageInputs_of_moving (s := s) fun c => by rw [circuit_decayed]; rfl) (fun _ => rfl) (fun _ => rfl) law

/-- Settles O59: an action that changes what an image is computed from ends with a recomputation, and the others keep the last-sent
image and image pending, or set both together. -/
theorem imageLawKept : Obligations.ImageLawKept := imageLaw_keeps.step

end Sys2Proof.Machine
end

section
/-! What each host command leaves of a part with power, its checks in their order: one equation per command. Shifting the frame
changes the port alone, so the checks and the action read the state before the command. -/
namespace Sys2Proof.Machine

/-! ## Accepted commands -/

/-- The state after an accepted command that led to `after`: the images recomputed, the result reported. -/
def State.acted (s after : State) (fields : List (Nat × Nat)) : State :=
  { s.recomputeImages after with port := (s.reported fields).port }

/-- The state after an accepted edit of R174's list: an ABORTED continuation is discarded with it (R176). -/
def State.edited (s after : State) (fields : List (Nat × Nat)) : State :=
  s.acted { after with sweeper := s.sweeper.afterEdit } fields

/-- An action whose result is not yet in the port is delivered. -/
theorem Reply.delivered_acted {s after u : State} (fields : List (Nat × Nat))
    (action : u = { after with port := (s.shiftFrame 96).port }) :
    (Reply.ok ((s.shiftFrame 96).recomputeImages u) fields).delivered = s.acted after fields := by
  subst action
  rfl

theorem Reply.delivered_edited {s after u : State} (fields : List (Nat × Nat)) (sweeper : after.sweeper = s.sweeper)
    (action : u = { after with port := (s.shiftFrame 96).port }) :
    (Reply.ok ((s.shiftFrame 96).recomputeImages u.discardContinuation) fields).delivered = s.edited after fields := by
  refine Reply.delivered_acted fields ?_
  subst action
  rw [State.discardContinuation_frame, ← sweeper]

theorem Reply.delivered_same (s : State) (fields : List (Nat × Nat)) :
    (Reply.ok (s.shiftFrame 96) fields).delivered = s.reported fields := rfl

/-! ## Actions that the frame does not reach -/

section
variable (s : State)

theorem delivered_setBinding (i : Nat) (b : Binding) (fields : List (Nat × Nat)) :
    (Reply.ok ((s.shiftFrame 96).recomputeImages ((s.shiftFrame 96).setBinding i b).discardContinuation) fields).delivered =
      s.edited (s.setBinding i b) fields := Reply.delivered_edited _ rfl rfl

theorem delivered_setAttrs (c : Nat) (a : CircuitAttrs) (fields : List (Nat × Nat)) :
    (Reply.ok ((s.shiftFrame 96).recomputeImages ((s.shiftFrame 96).setAttrs c a).discardContinuation) fields).delivered =
      s.edited (s.setAttrs c a) fields := Reply.delivered_edited _ rfl rfl

theorem delivered_retire (c : Nat) (fields : List (Nat × Nat)) :
    (Reply.ok ((s.shiftFrame 96).recomputeImages ((s.shiftFrame 96).retire c).discardContinuation) fields).delivered =
      s.edited (s.retire c) fields := Reply.delivered_edited _ rfl rfl

/-- A circuit restored to service with its faults cleared (R105). -/
def State.restored (c : Nat) : State :=
  (s.setAttrs c { s.attrs c with retired := false }).setCircuit c { s.circuit c with faultCount := 0, reported := false }

theorem delivered_restored (c : Nat) (fields : List (Nat × Nat)) :
    (Reply.ok ((s.shiftFrame 96).recomputeImages ((s.shiftFrame 96).restored c).discardContinuation) fields).delivered =
      s.edited (s.restored c) fields := Reply.delivered_edited _ rfl rfl

theorem delivered_setGroup (g : Nat) (l : List Nat) (fields : List (Nat × Nat)) :
    (Reply.ok ((s.shiftFrame 96).recomputeImages ((s.shiftFrame 96).setGroup g l).discardContinuation) fields).delivered =
      s.edited (s.setGroup g l) fields := Reply.delivered_edited _ rfl rfl

theorem delivered_setPreset (p : Nat) (v : Preset) (fields : List (Nat × Nat)) :
    (Reply.ok ((s.shiftFrame 96).recomputeImages ((s.shiftFrame 96).setPreset p v).discardContinuation) fields).delivered =
      s.edited (s.setPreset p v) fields := Reply.delivered_edited _ rfl rfl

theorem adjustEnrollment_port (n : Nat) (was now : Bool) (port : Port) :
    { s with port := port }.adjustEnrollment n was now = { s.adjustEnrollment n was now with port := port } := by
  have live : State.live { s with port := port } n = s.live n := rfl
  unfold State.adjustEnrollment
  rw [live]
  by_cases enrolls : was = false ∧ now = true
  · by_cases heard : (s.live n).presence = .heard
    · rw [if_pos enrolls, if_pos enrolls, if_pos heard, if_pos heard]
      rfl
    · rw [if_pos enrolls, if_pos enrolls, if_neg heard, if_neg heard]
  · by_cases leaves : was = true ∧ now = false
    · rw [if_neg enrolls, if_neg enrolls, if_pos leaves, if_pos leaves]
      rfl
    · rw [if_neg enrolls, if_neg enrolls, if_neg leaves, if_neg leaves]

theorem delivered_adjustEnrollment (n : Nat) (c : StationConfig) (was now : Bool) (fields : List (Nat × Nat)) :
    (Reply.ok ((s.shiftFrame 96).recomputeImages (((s.shiftFrame 96).setSlot n c).adjustEnrollment n was now))
      fields).delivered = s.acted ((s.setSlot n c).adjustEnrollment n was now) fields :=
  Reply.delivered_acted _ (adjustEnrollment_port (s.setSlot n c) n was now _)

theorem enterPanic_port (cause : ModeCause) (port : Port) :
    { s with port := port }.enterPanic cause = { s.enterPanic cause with port := port } := by
  unfold State.enterPanic
  by_cases h : s.mode = .panic
  · simp only [h, if_true]
  · simp only [h, if_false]
    rfl

theorem lapse_port (cause : ModeCause) (port : Port) :
    { s with port := port }.lapse cause = { s.lapse cause with port := port } := by
  unfold State.lapse
  by_cases h : s.mode = .show
  · simp only [h, if_true]
    rfl
  · simp only [h, if_false]
    rfl

/-- The state with one entry of the zone minimum table replaced, and a parking pass when it is of the current mode (R135). -/
def State.zoneWritten (m : Mode) (z : Nat) (v : ZoneMinimum) : State :=
  let written := { s with config := { s.config with zoneMinimums := s.config.zoneMinimums.set (zoneIndex m z) v } }
  if m = s.mode then written.parkingPass else written

theorem zoneWritten_port (m : Mode) (z : Nat) (v : ZoneMinimum) (port : Port) :
    { s with port := port }.zoneWritten m z v = { s.zoneWritten m z v with port := port } := by
  unfold State.zoneWritten
  by_cases h : m = s.mode
  · simp only [h, if_true]
    rfl
  · simp only [h, if_false]

theorem delivered_zoneWritten (m : Mode) (z : Nat) (v : ZoneMinimum) (fields : List (Nat × Nat)) :
    (Reply.ok ((s.shiftFrame 96).recomputeImages ((s.shiftFrame 96).zoneWritten m z v)) fields).delivered =
      s.acted (s.zoneWritten m z v) fields := Reply.delivered_acted _ (zoneWritten_port s m z v _)

/-- What a LOCK_RENEW in the closed half leaves: the lock lapsed EARLY, the command refused (R150). -/
def State.lapsedEarly : State :=
  { s.recomputeImages (s.lapse .early) with port := (s.refusedWith 0x34 .lockState .none reasonEarly).port
                                            sense := (s.refusedWith 0x34 .lockState .none []).sense }

theorem delivered_lapsedEarly :
    (Reply.refuse ((s.shiftFrame 96).recomputeImages ((s.shiftFrame 96).lapse .early)) 0x34 .lockState .none
      reasonEarly).delivered = s.lapsedEarly := by
  rw [State.shiftFrame_eq, lapse_port]
  have sense : (s.lapse .early).sense = s.sense := by rw [State.lapse_frame]
  unfold State.lapsedEarly State.refusedWith Reply.refuse Reply.delivered State.answered State.writeSense
  rw [State.shiftFrame_sense, ← sense]
  rfl

end

section
variable {s : State} (hp : s.powered = true)
include hp

/-! ## Frames (R178 to R181) -/

theorem exec_badFrame {edges : Nat} (h : ¬ (edges = 8 ∨ edges = 96)) :
    exec (.badFrame edges) s = .next { s with port := { (s.shiftFrame edges).port with frameBad := true } } := by
  rw [exec, execBadFrame, if_neg h]
  exact whenPowered_on hp _

theorem exec_statusOnlyFrame : exec .statusOnlyFrame s = .next (s.shiftFrame 8) := whenPowered_on hp _

theorem exec_badCommand {code : Byte} (h : code ∉ commandCodes) :
    exec (.badCommand code) s = .next (s.refusedWith code .badCommand .none []) := by
  rw [exec, execBadCommand, if_neg (by simpa using h), hostCommand_on hp]
  rfl

theorem exec_nop : exec .nop s = .next (s.reported []) := by
  rw [exec, execNop, hostCommand_on hp]
  rfl

/-! ## Stations (R20 to R22, R39) -/

theorem exec_writeStation (station enrolled : Byte) (base : Half) (count authority : Byte) :
    exec (.writeStation station enrolled base count authority) s = .next (
      let n := station.toNat
      let new : StationConfig :=
        { enrolled := readYes enrolled, base := base.toNat, count := count.toNat, authority := authority.toNat }
      if !stationUsable n ∨ 1023 < base.toNat ∨ count.toNat = 0 ∨ 16 < count.toNat ∨ 3 < authority.toNat then
        s.refusedWith 0x08 .badParameter (.station n) []
      else s.acted ((s.setSlot n new).adjustEnrollment n (s.slot n).enrolled new.enrolled)
        [(7, n), yesNo (s.slot n).enrolled]) := by
  rw [exec, execWriteStation, hostCommand_on hp]
  simp only [apply_ite Reply.delivered]
  rw [delivered_adjustEnrollment]
  rfl

theorem exec_readStation (station : Byte) :
    exec (.readStation station) s = .next (
      let n := station.toNat
      if !stationUsable n then s.refusedWith 0x09 .badParameter (.station n) []
      else s.reported
        [yesNo (s.slot n).enrolled, (10, (s.slot n).base), (5, (s.slot n).count), (2, (s.slot n).authority),
         (2, (s.live n).presence.code), (2, (s.live n).missCount), (2, expectedCode (s.live n).expected),
         (3, (s.live n).answer.code), yesNo (s.live n).imagePending, (16, (s.live n).deny.toNat)]) := by
  rw [exec, execReadStation, hostCommand_on hp]
  simp only [apply_ite Reply.delivered]
  rfl

theorem exec_loopRestart (parameter : Byte) :
    exec (.loopRestart parameter) s = .next (
      match loopParameter parameter with
      | none => s.refusedWith 0x0A .badParameter .none []
      | some l => s.acted (s.restartLoop l) []) := by
  rw [exec, execLoopRestart, hostCommand_on hp]
  cases loopParameter parameter with
  | none => rfl
  | some l =>
    refine congrArg _ (Reply.delivered_acted _ ?_)
    cases l <;> rfl

/-! ## Bindings (R11 to R15) -/

theorem exec_writeBinding (index : Half) (record : BitVec 72) :
    exec (.writeBinding index record) s = .next (
      let i := index.toNat
      let fields := [(10, i), yesNo (s.binding i).present]
      if s.sweeper.active then s.refusedWith 0x10 .sweepActive (.binding i) []
      else if 1023 < i then s.refusedWith 0x10 .badParameter (.binding i) []
      else if recordPresent record = false then s.edited (s.setBinding i .empty) fields
      else match readRecord record with
        | some b => s.edited (s.setBinding i b) fields
        | none => s.refusedWith 0x10 .badParameter (.binding i) []) := by
  rw [exec, execWriteBinding, hostCommand_on hp]
  cases readRecord record <;> simp only [apply_ite Reply.delivered, replaceBinding, delivered_setBinding] <;> rfl

theorem exec_readBinding (index : Half) :
    exec (.readBinding index) s = .next (
      if 1023 < index.toNat then s.refusedWith 0x11 .badParameter (.binding index.toNat) []
      else s.reported [(72, (writeRecord (s.binding index.toNat)).toNat)]) := by
  rw [exec, execReadBinding, hostCommand_on hp]
  simp only [apply_ite Reply.delivered]
  rfl

theorem exec_clearBinding (index : Half) :
    exec (.clearBinding index) s = .next (
      let i := index.toNat
      if s.sweeper.active then s.refusedWith 0x12 .sweepActive (.binding i) []
      else if 1023 < i then s.refusedWith 0x12 .badParameter (.binding i) []
      else s.edited (s.setBinding i .empty) [(10, i), yesNo (s.binding i).present]) := by
  rw [exec, execClearBinding, hostCommand_on hp]
  simp only [apply_ite Reply.delivered, replaceBinding, delivered_setBinding]
  rfl

/-! ## Circuits (R94, R100 to R105) -/

/-- The attributes that an accepted WRITE_CIRCUIT leaves (R100, R101). -/
def CircuitAttrs.rewritten (a : CircuitAttrs) (egress house participant : Bool) (floor : Nat) (k : Curve) (m : MergeRule) :
    CircuitAttrs :=
  { egress := egress, floor := floor, house := house, panicParticipant := egress || participant, curve := k, mergeRule := m,
    retired := a.retired }

theorem exec_writeCircuit (circuit : Half) (egress : Byte) (floor : Half) (house participant curve mergeRule : Byte) :
    exec (.writeCircuit circuit egress floor house participant curve mergeRule) s = .next (
      let c := circuit.toNat
      if s.sweeper.active then s.refusedWith 0x18 .sweepActive (.circuit c) []
      else if 383 < c ∨ 1000 < floor.toNat then s.refusedWith 0x18 .badParameter (.circuit c) []
      else match curveOf curve.toNat, mergeRuleOf mergeRule.toNat with
        | some k, some m =>
          if readYes egress = true ∧ (s.attrs c).retired = true then s.refusedWith 0x18 .egressProtected (.circuit c) []
          else s.edited
            (s.setAttrs c ((s.attrs c).rewritten (readYes egress) (readYes house) (readYes participant) floor.toNat k m))
            [(9, c), yesNo (readYes egress || readYes participant)]
        | _, _ => s.refusedWith 0x18 .badParameter (.circuit c) []) := by
  rw [exec, execWriteCircuit, hostCommand_on hp]
  cases curveOf curve.toNat <;> cases mergeRuleOf mergeRule.toNat <;> simp only [apply_ite Reply.delivered]
  case some.some =>
    rw [delivered_setAttrs]
    rfl
  all_goals rfl

theorem exec_readCircuit (circuit : Half) :
    exec (.readCircuit circuit) s = .next (
      let c := circuit.toNat
      if 383 < c then s.refusedWith 0x19 .badParameter (.circuit c) []
      else s.reported
        [yesNo (s.attrs c).egress, (10, (s.attrs c).floor), yesNo (s.attrs c).house, yesNo (s.attrs c).panicParticipant,
         (2, (s.attrs c).curve.code), (1, (s.attrs c).mergeRule.code), yesNo (s.attrs c).retired, (10, s.outputLevel c),
         (8, s.rackCode c), (3, (s.circuit c).faultCount), (10, (contributions s.holds c).length),
         optional 9 (s.circuit c).moving]) := by
  rw [exec, execReadCircuit, hostCommand_on hp]
  simp only [apply_ite Reply.delivered]
  rfl

theorem exec_retireCircuit (circuit : Half) :
    exec (.retireCircuit circuit) s = .next (
      let c := circuit.toNat
      if s.sweeper.active then s.refusedWith 0x1A .sweepActive (.circuit c) []
      else if 383 < c then s.refusedWith 0x1A .badParameter (.circuit c) []
      else if (s.attrs c).egress then s.refusedWith 0x1A .egressProtected (.circuit c) []
      else if (s.attrs c).retired then
        { s.reported [(9, c), (10, 0), yesNo true] with sweeper := s.sweeper.afterEdit }
      else s.edited (s.retire c) [(9, c), (10, (contributions s.holds c).length), yesNo false]) := by
  rw [exec, execRetireCircuit, hostCommand_on hp]
  simp only [apply_ite Reply.delivered]
  rw [delivered_retire, State.discardContinuation_frame]
  rfl

theorem exec_restoreCircuit (circuit : Half) :
    exec (.restoreCircuit circuit) s = .next (
      let c := circuit.toNat
      if s.sweeper.active then s.refusedWith 0x1B .sweepActive (.circuit c) []
      else if 383 < c then s.refusedWith 0x1B .badParameter (.circuit c) []
      else s.edited (s.restored c) [(9, c), yesNo (s.attrs c).retired, (3, (s.circuit c).faultCount)]) := by
  rw [exec, execRestoreCircuit, hostCommand_on hp]
  simp only [apply_ite Reply.delivered]
  have restored := delivered_restored s circuit.toNat
  unfold State.restored at restored
  rw [restored]
  rfl

theorem exec_listHolds (circuit position : Half) :
    exec (.listHolds circuit position) s = .next (
      let c := circuit.toNat
      let list := contributions s.holds c
      if 383 < c ∨ 511 < position.toNat then s.refusedWith 0x1C .badParameter (.circuit c) []
      else match list[position.toNat]? with
        | some h => s.reported ((10, list.length) :: h.fields)
        | none => s.refusedWith 0x1C .notFound (.circuit c) [(10, list.length)]) := by
  rw [exec, execListHolds, hostCommand_on hp]
  simp only [apply_ite Reply.delivered, State.shiftFrame_holds]
  cases (contributions s.holds circuit.toNat)[position.toNat]? <;> rfl

/-! ## Groups (R119 to R121) -/

theorem exec_groupAdd (group : Byte) (circuit : Half) :
    exec (.groupAdd group circuit) s = .next (
      let g := group.toNat
      let c := circuit.toNat
      if s.sweeper.active then s.refusedWith 0x20 .sweepActive (.group g) []
      else if 63 < g ∨ 383 < c then s.refusedWith 0x20 .badParameter (.group g) []
      else if (s.group g).contains c then s.refusedWith 0x20 .duplicate (.group g) []
      else if Config.groupSize ≤ (s.group g).length then s.refusedWith 0x20 .collectionFull (.group g) []
      else s.edited (s.setGroup g (s.group g ++ [c])) [(6, g), (5, (s.group g).length), (6, (s.group g).length + 1)]) := by
  rw [exec, execGroupAdd, hostCommand_on hp]
  simp only [apply_ite Reply.delivered, editedList]
  rw [delivered_setGroup]
  rfl

theorem exec_groupRemove (group : Byte) (circuit : Half) :
    exec (.groupRemove group circuit) s = .next (
      let g := group.toNat
      let c := circuit.toNat
      if s.sweeper.active then s.refusedWith 0x21 .sweepActive (.group g) []
      else if 63 < g ∨ 383 < c then s.refusedWith 0x21 .badParameter (.group g) []
      else match positionOf (fun x => x == c) (s.group g) with
        | none => s.refusedWith 0x21 .notFound (.group g) []
        | some k => s.edited (s.setGroup g ((s.group g).eraseIdx k)) [(6, g), (5, k), (6, (s.group g).length - 1)]) := by
  have group_shift : (s.shiftFrame 96).group = s.group := rfl
  rw [exec, execGroupRemove, hostCommand_on hp]
  simp only [apply_ite Reply.delivered, editedList, group_shift]
  cases positionOf (fun x => x == circuit.toNat) (s.group group.toNat) with
  | none => rfl
  | some k =>
    simp only []
    rw [delivered_setGroup]
    rfl

theorem exec_groupRead (group position : Byte) :
    exec (.groupRead group position) s = .next (
      let g := group.toNat
      if 63 < g ∨ 31 < position.toNat then s.refusedWith 0x22 .badParameter (.group g) []
      else match (s.group g)[position.toNat]? with
        | some c => s.reported [(6, (s.group g).length), (9, c), yesNo (s.attrs c).retired]
        | none => s.refusedWith 0x22 .notFound (.group g) [(6, (s.group g).length)]) := by
  have group_shift : (s.shiftFrame 96).group = s.group := rfl
  rw [exec, execGroupRead, hostCommand_on hp]
  simp only [apply_ite Reply.delivered, group_shift]
  cases (s.group group.toNat)[position.toNat]? <;> rfl

/-! ## Presets (R123 to R126) -/

theorem exec_presetSetEntry (preset : Byte) (circuit level : Half) :
    exec (.presetSetEntry preset circuit level) s = .next (
      let p := preset.toNat
      let c := circuit.toNat
      let v := s.preset p
      if s.sweeper.active then s.refusedWith 0x23 .sweepActive (.preset p) []
      else if 47 < p ∨ 383 < c ∨ 1000 < level.toNat then s.refusedWith 0x23 .badParameter (.preset p) []
      else match positionOf (fun x => x.1 == c) v.entries with
        | some k => s.edited (s.setPreset p { v with entries := v.entries.set k (c, level.toNat) })
            [(6, p), (6, k), (7, v.entries.length), newEntryMark false]
        | none =>
          if Config.presetSize ≤ v.entries.length then s.refusedWith 0x23 .collectionFull (.preset p) []
          else s.edited (s.setPreset p { v with entries := v.entries ++ [(c, level.toNat)] })
            [(6, p), (6, v.entries.length), (7, v.entries.length + 1), newEntryMark true]) := by
  have preset_shift : (s.shiftFrame 96).preset = s.preset := rfl
  rw [exec, execPresetSetEntry, hostCommand_on hp]
  simp only [apply_ite Reply.delivered, editedList, preset_shift]
  cases positionOf (fun x => x.1 == circuit.toNat) (s.preset preset.toNat).entries <;>
    · simp only [apply_ite Reply.delivered]
      rw [delivered_setPreset]
      rfl

theorem exec_presetRemoveEntry (preset : Byte) (circuit : Half) :
    exec (.presetRemoveEntry preset circuit) s = .next (
      let p := preset.toNat
      let c := circuit.toNat
      let v := s.preset p
      if s.sweeper.active then s.refusedWith 0x24 .sweepActive (.preset p) []
      else if 47 < p ∨ 383 < c then s.refusedWith 0x24 .badParameter (.preset p) []
      else match positionOf (fun x => x.1 == c) v.entries with
        | none => s.refusedWith 0x24 .notFound (.preset p) []
        | some k => s.edited (s.setPreset p { v with entries := v.entries.eraseIdx k })
            [(6, p), (6, k), (7, v.entries.length - 1)]) := by
  have preset_shift : (s.shiftFrame 96).preset = s.preset := rfl
  rw [exec, execPresetRemoveEntry, hostCommand_on hp]
  simp only [apply_ite Reply.delivered, editedList, preset_shift]
  cases positionOf (fun x => x.1 == circuit.toNat) (s.preset preset.toNat).entries with
  | none => rfl
  | some k =>
    simp only []
    rw [delivered_setPreset]
    rfl

theorem exec_presetSetAttr (preset : Byte) (fade : Half) (zone : Byte) :
    exec (.presetSetAttr preset fade zone) s = .next (
      let p := preset.toNat
      let v := s.preset p
      if s.sweeper.active then s.refusedWith 0x25 .sweepActive (.preset p) []
      else if 47 < p ∨ 600 < fade.toNat ∨ 15 < zone.toNat then s.refusedWith 0x25 .badParameter (.preset p) []
      else s.edited (s.setPreset p { v with fade := fade.toNat, zone := zone.toNat })
        [(6, p), (10, v.fade), (4, v.zone)]) := by
  rw [exec, execPresetSetAttr, hostCommand_on hp]
  simp only [apply_ite Reply.delivered, editedList]
  rw [delivered_setPreset]
  rfl

theorem exec_presetRead (preset position : Byte) :
    exec (.presetRead preset position) s = .next (
      let v := s.preset preset.toNat
      let always := [(7, v.entries.length), (10, v.fade), (4, v.zone), yesNo (s.presetBusy preset.toNat)]
      if 47 < preset.toNat ∨ 63 < position.toNat then s.refusedWith 0x26 .badParameter (.preset preset.toNat) []
      else match v.entries[position.toNat]? with
        | some x => s.reported (always ++ [(9, x.1), (10, x.2), yesNo (s.attrs x.1).retired])
        | none => s.refusedWith 0x26 .notFound (.preset preset.toNat) always) := by
  have preset_shift : (s.shiftFrame 96).preset = s.preset := rfl
  rw [exec, execPresetRead, hostCommand_on hp]
  simp only [apply_ite Reply.delivered, preset_shift]
  cases (s.preset preset.toNat).entries[position.toNat]? <;> rfl

/-! ## Console (R91 to R93, R131, R132) -/

theorem exec_placeHold (channel targetKind : Byte) (number level fade : Half) (priority : Byte) :
    exec (.placeHold channel targetKind number level fade priority) s = .next (
      let ref := consoleRef targetKind.toNat number.toNat
      let o := Originator.console channel.toNat
      match consoleTarget targetKind.toNat number.toNat with
      | none => s.refusedWith 0x28 .badParameter ref []
      | some target =>
        let targets := s.targets target level.toNat
        if 7 < channel.toNat ∨ 1000 < level.toNat ∨ 600 < fade.toNat ∨ priority.toNat = 0 ∨ 7 < priority.toNat then
          s.refusedWith 0x28 .badParameter ref []
        else if targets.isEmpty then
          s.refusedWith 0x28 (if targetKind.toNat = 1 then .circuitRetired else .noTarget) ref []
        else if freeRecords s.holds < lacking s.holds o targets then s.refusedWith 0x28 .poolFull ref []
        else s.acted (s.place (s.consolePlacement o fade.toNat priority.toNat none) targets)
          [(6, lacking s.holds o targets), (6, targets.length - lacking s.holds o targets)]) := by
  rw [exec, execPlaceHold, hostCommand_on hp]
  cases consoleTarget targetKind.toNat number.toNat with
  | none => rfl
  | some target =>
    simp only [apply_ite Reply.delivered]
    rfl

theorem exec_releaseHold (channel targetKind : Byte) (number : Half) :
    exec (.releaseHold channel targetKind number) s = .next (
      let ref := consoleRef targetKind.toNat number.toNat
      match consoleTarget targetKind.toNat number.toNat with
      | none => s.refusedWith 0x29 .badParameter ref []
      | some target =>
        if 7 < channel.toNat then s.refusedWith 0x29 .badParameter ref []
        else
          let p := Hold.isOn (.console channel.toNat) (s.mappedTargets target 0)
          s.acted (s.release p) [(6, countReleased p s.holds)]) := by
  rw [exec, execReleaseHold, hostCommand_on hp]
  cases consoleTarget targetKind.toNat number.toNat with
  | none => rfl
  | some target =>
    simp only [apply_ite Reply.delivered]
    rfl

theorem exec_recallPreset (preset priority : Byte) :
    exec (.recallPreset preset priority) s = .next (
      let p := preset.toNat
      let o := Originator.preset p
      let targets := s.targets (.preset p) 0
      if 47 < p ∨ priority.toNat = 0 ∨ 7 < priority.toNat then s.refusedWith 0x2A .badParameter (.preset p) []
      else if targets.isEmpty then s.refusedWith 0x2A .noTarget (.preset p) []
      else if s.presetBusy p then s.refusedWith 0x2A .presetBusy (.preset p) []
      else if freeRecords s.holds < lacking s.holds o targets then s.refusedWith 0x2A .poolFull (.preset p) []
      else s.acted (s.place (s.consolePlacement o (s.preset p).fade priority.toNat (some (s.preset p).zone)) targets)
        [(7, lacking s.holds o targets), (7, targets.length - lacking s.holds o targets)]) := by
  rw [exec, execRecallPreset, hostCommand_on hp]
  simp only [apply_ite Reply.delivered]
  rfl

/-- The state after the release of every live hold of an originator (R93, R132). -/
def State.releasedOriginator (s : State) (o : Originator) : State :=
  s.acted (s.release fun h => h.originator == o) [(10, countReleased (fun h => h.originator == o) s.holds)]

theorem exec_releasePreset (preset : Byte) :
    exec (.releasePreset preset) s = .next (
      if 47 < preset.toNat then s.refusedWith 0x2B .badParameter (.preset preset.toNat) []
      else s.releasedOriginator (.preset preset.toNat)) := by
  rw [exec, execReleasePreset, hostCommand_on hp]
  simp only [apply_ite Reply.delivered]
  rfl

theorem exec_releaseOwner (index : Half) :
    exec (.releaseOwner index) s = .next (
      if 1023 < index.toNat then s.refusedWith 0x2C .badParameter (.binding index.toNat) []
      else s.releasedOriginator (.binding index.toNat)) := by
  rw [exec, execReleaseOwner, hostCommand_on hp]
  simp only [apply_ite Reply.delivered]
  rfl

/-! ## Modes (R135, R138, R140, R143, R146) -/

theorem exec_setMode (request : Byte) :
    exec (.setMode request) s = .next (
      match checkSetMode s request.toNat with
      | .error r => s.refusedWith 0x30 r .none []
      | .ok m =>
        if m = s.mode then s.reported (unchangedModeData m)
        else s.acted (s.changeMode m .setMode) [(3, s.mode.code), (3, m.code)]) := by
  have check_shift : checkSetMode (s.shiftFrame 96) = checkSetMode s := rfl
  rw [exec, execSetMode, hostCommand_on hp, check_shift]
  cases checkSetMode s request.toNat with
  | error r => rfl
  | ok m =>
    simp only [apply_ite Reply.delivered]
    rfl

theorem exec_setZoneMinimum (mode zone value : Byte) :
    exec (.setZoneMinimum mode zone value) s = .next (
      match modeOf mode.toNat, zoneMinimumOf value.toNat with
      | some m, some v =>
        if m = .panic ∨ 15 < zone.toNat then s.refusedWith 0x31 .badParameter .none []
        else s.acted (s.zoneWritten m zone.toNat v)
          [(3, m.code), (4, zone.toNat), (3, (s.config.zoneMinimums.get (.atLeast 0) (zoneIndex m zone.toNat)).code)]
      | _, _ => s.refusedWith 0x31 .badParameter .none []) := by
  rw [exec, execSetZoneMinimum, hostCommand_on hp]
  cases modeOf mode.toNat <;> cases zoneMinimumOf value.toNat <;> simp only [apply_ite Reply.delivered]
  case some.some m v =>
    exact congrArg _ (if_congr Iff.rfl rfl (delivered_zoneWritten s m zone.toNat v _))
  all_goals rfl

theorem exec_setHoldoverLevel (level : Half) :
    exec (.setHoldoverLevel level) s = .next (
      if 1000 < level.toNat then s.refusedWith 0x32 .badParameter .none []
      else s.acted { s with config := { s.config with holdoverLevel := level.toNat } } [(10, s.config.holdoverLevel)]) := by
  rw [exec, execSetHoldoverLevel, hostCommand_on hp]
  simp only [apply_ite Reply.delivered]
  rfl

theorem exec_panic : exec .panic s = .next (s.acted (s.enterPanic .panicCommand) [(3, s.mode.code)]) := by
  rw [exec, execPanic, hostCommand_on hp]
  exact congrArg _ (Reply.delivered_acted _ (enterPanic_port s .panicCommand _))

theorem exec_clearPanic :
    exec .clearPanic s = .next (
      if s.mode = .panic ∧ s.panicLatch = false then s.acted (s.changeMode .openHouse .clearPanic) []
      else s.refusedWith 0x37 .modeConflict .none []) := by
  rw [exec, execClearPanic, hostCommand_on hp]
  simp only [apply_ite Reply.delivered]
  rfl

/-! ## The show lock (R149, R150, R152) -/

/-- What a valid LOCK_RENEW with toggle `t` leaves (R149). -/
def State.renewed (s : State) (h : LockHeld) (t : Bool) : State :=
  { s.reported [(2, 2), yesNo t, (10, tenMilliseconds (s.clock - h.since))] with
    lock := .windowed { h with lastToggle := t, since := s.clock } }

theorem exec_lockRenew (toggle : Byte) :
    exec (.lockRenew toggle) s = .next (
      match toggleOf toggle with
      | none => s.refusedWith 0x34 .badParameter .none []
      | some t =>
        match s.lock with
        | .free => s.refusedWith 0x34 .lockState .none reasonNotHeld
        | .first h => if t = h.lastToggle then s.refusedWith 0x34 .lockState .none reasonSameToggle else s.renewed h t
        | .windowed h =>
          if t = h.lastToggle then s.refusedWith 0x34 .lockState .none reasonSameToggle
          else if s.clock - h.since < Config.closedTicks h.period then s.lapsedEarly
          else s.renewed h t) := by
  rw [exec, execLockRenew, hostCommand_on hp]
  cases toggleOf toggle with
  | none => rfl
  | some t =>
    simp only [State.shiftFrame_lock]
    cases s.lock with
    | free => rfl
    | first h =>
      simp only [apply_ite Reply.delivered]
      rfl
    | windowed h =>
      simp only [apply_ite Reply.delivered, delivered_lapsedEarly]
      rfl

theorem exec_lockGive :
    exec .lockGive s = .next (
      if s.mode = .show then s.refusedWith 0x35 .modeConflict .none []
      else { s.reported [(2, s.lock.code)] with lock := .free }) := by
  rw [exec, execLockGive, hostCommand_on hp]
  simp only [apply_ite Reply.delivered]
  rfl

/-! ## Retargeting and the store (R170, R175, R176, R193) -/

theorem exec_retarget (oldCircuit newCircuit : Half) :
    exec (.retarget oldCircuit newCircuit) s = .next (
      let old := oldCircuit.toNat
      let new := newCircuit.toNat
      if s.sweeper.active then s.refusedWith 0x38 .sweepActive (.circuit old) []
      else if 383 < old ∨ 383 < new ∨ old = new then s.refusedWith 0x38 .badParameter (.circuit old) []
      else if (s.attrs new).retired then s.refusedWith 0x38 .circuitRetired (.circuit new) []
      else match s.sweeper.continuation old new with
        | some job => s.acted (s.reissue job)
            [(9, old), (9, new), freshMark false, (12, job.position.code), (10, 0), (10, 0)]
        | none => s.acted (s.issueFresh old new)
            [(9, old), (9, new), freshMark true, (10, (movedHolds s.holds old new).length),
             (10, (contributions s.holds old).length - (movedHolds s.holds old new).length)]) := by
  rw [exec, execRetarget, hostCommand_on hp]
  simp only [apply_ite Reply.delivered]
  rw [State.shiftFrame_sweeper]
  cases s.sweeper.continuation oldCircuit.toNat newCircuit.toNat <;> rfl

/-- What an accepted SWEEP_ABORT of a sweep leaves (R175). -/
def State.sweepAborted (s : State) (job : SweepJob) : State :=
  (s.acted ((s.abortSweep job).latchSweep .aborted job s.sweeper.changed)
    [(9, job.oldCircuit), (9, job.newCircuit), (12, job.position.code), (11, s.sweeper.changed)]).writeSense 0x39 .ok
      (.sweepPosition job.position)

theorem exec_sweepAbort :
    exec .sweepAbort s = .next (
      match s.sweeper.state with
      | .sweeping job => s.sweepAborted job
      | _ => s.refusedWith 0x39 .notFound .none []) := by
  rw [exec, execSweepAbort, hostCommand_on hp]
  simp only [State.shiftFrame_sweeper]
  cases s.sweeper.state <;> rfl

theorem exec_save :
    exec .save s = .next (
      if s.store.busy then s.refusedWith 0x3A .storeBusy .none []
      else { s.reported [(2, s.store.code)] with store := .writing s.config s.clock }) := by
  rw [exec, execSave, hostCommand_on hp]
  simp only [apply_ite Reply.delivered]
  rfl

/-! ## Reporting and restart (R185, R186, R188, R189, R191) -/

theorem exec_readSense :
    exec .readSense s = .next
      { s.reported [yesNo s.sense.valid, (8, s.sense.command.toNat), (4, s.sense.result.code), (3, s.sense.ref.kindCode),
          (12, s.sense.ref.value), yesNo s.sense.refValid, yesNo s.sense.earlierUnread] with
        sense := SenseRecord.cleared } := by
  rw [exec, execReadSense, hostCommand_on hp]
  rfl

theorem exec_readRefusal :
    exec .readRefusal s = .next
      { s.reported [yesNo s.refusal.valid, (7, s.refusal.station), (4, s.refusal.control), optional 10 s.refusal.binding,
          (4, s.refusal.code.code), yesNo s.refusal.earlierUnread] with
        refusal := RefusalRecord.cleared } := by
  rw [exec, execReadRefusal, hostCommand_on hp]
  rfl

theorem exec_readEvents :
    exec .readEvents s = .next
      { s.reported (s.events.flags.fields ++ s.events.details.fields) with
        events := { s.events with flags := EventGroups.all false } } := by
  rw [exec, execReadEvents, hostCommand_on hp]
  rfl

theorem exec_eventMask (station press circuit rack mode sweep store : Byte) :
    exec (.eventMask station press circuit rack mode sweep store) s = .next
      { s.reported s.mask.fields with
        mask := { station := readYes station, press := readYes press, circuit := readYes circuit, rack := readYes rack,
                  mode := readYes mode, sweep := readYes sweep, store := readYes store } } := by
  rw [exec, execEventMask, hostCommand_on hp]
  rfl

theorem exec_restart :
    exec .restart s = .next
      { s.restarted with port := (s.reported [(3, s.restartMode.code), yesNo s.sweeper.active]).port } := by
  rw [exec, execRestart, hostCommand_on hp]
  rfl

end

end Sys2Proof.Machine
end

section
/-! What an accepted command leaves: the rules for `acted` and `edited`, which the proofs about single commands use. -/
namespace Sys2Proof.Machine.State

variable {s after : State}

/-! ## Accepted commands -/

/-- An accepted command writes the port and, of every station, image pending. -/
theorem acted_frame (s after : State) (fields : List (Nat × Nat)) :
    s.acted after fields =
      { after with stations := (s.acted after fields).stations, port := (s.reported fields).port } := rfl

theorem edited_frame (s after : State) (fields : List (Nat × Nat)) :
    s.edited after fields =
      { after with stations := (s.edited after fields).stations, sweeper := s.sweeper.afterEdit,
                   port := (s.reported fields).port } := rfl

theorem live_acted (s after : State) (fields : List (Nat × Nat)) (n : Nat) :
    (s.acted after fields).live n = recomputeOne s after n (after.live n) := live_recomputeImages s after n

/-- Of a station that the action leaves alone, an accepted command changes image pending alone. -/
theorem live_acted_of_live (fields : List (Nat × Nat)) {n : Nat} (live : after.live n = s.live n) :
    (s.acted after fields).live n = { s.live n with imagePending := ((s.acted after fields).live n).imagePending } := by
  rw [live_acted, live]
  exact recomputeOne_pending s after n (s.live n)

theorem sameButPending_acted (fields : List (Nat × Nat)) (live : ∀ n, after.live n = s.live n) :
    s.SameButPending (s.acted after fields) := fun n => live_acted_of_live fields (live n)

theorem sameButPending_edited (fields : List (Nat × Nat)) (live : ∀ n, after.live n = s.live n) :
    s.SameButPending (s.edited after fields) := sameButPending_acted fields live

/-- An accepted edit of R174's list that writes configuration alone. -/
theorem edited_edited (fields : List (Nat × Nat)) (action : after = { s with config := after.config }) :
    s.Edited (s.edited after fields) fields := by
  refine ⟨?_, sameButPending_edited fields fun n => ?_⟩
  · rw [edited_frame]
    generalize (s.edited after fields).stations = stations
    rw [action]
  · rw [action]
    rfl

/-- An accepted command leaves what the recomputation gives, where its action leaves image pending alone. -/
theorem pendingRecomputed_acted (fields : List (Nat × Nat)) {n : Nat}
    (pending : (after.live n).imagePending = (s.live n).imagePending) : s.PendingRecomputed (s.acted after fields) n :=
  pendingRecomputed_recomputed (before := s) (after := after) rfl pending

/-! ## Refused commands -/

/-- A refused command changes the reports alone. -/
theorem refusedWith_eq (s : State) (command : Byte) (result : ResultCode) (ref : SenseRef) (fields : List (Nat × Nat)) :
    s.refusedWith command result ref fields =
      { s with port := (s.refusedWith command result ref fields).port,
               sense := (s.refusedWith command result ref fields).sense } := rfl

end Sys2Proof.Machine.State
end

section
/-! What every command does to the reports, the queue and image pending, said once: a host command is refused or accepted, an
event answers nothing. -/
namespace Sys2Proof.Machine

open State

/-! ## Host commands (R180 to R184) -/

/-- What the host command `i` with code `k` can leave. -/
inductive Answered (s : State) (i : Instr) (k : Byte) : State → Prop
  | refused (result : ResultCode) (ref : SenseRef) (fields : List (Nat × Nat)) (code : result ≠ .ok) :
      Answered s i k (s.refusedWith k result ref fields)
  | accepted (t : State) (fields : List (Nat × Nat)) (port : t.port = (s.reported fields).port)
      (pending : t.pending = s.pending)
      (sense : i ≠ .readSense → i ≠ .sweepAbort → i ≠ .restart → t.sense = s.sense)
      (images : ∀ n, ¬ s.PendingSetBy i n → s.PendingRecomputed t n) : Answered s i k t
  | lapsed (toggle : Byte) (command : i = .lockRenew toggle) : Answered s i k s.lapsedEarly

namespace Answered

variable {s : State} {i : Instr} {k : Byte}

/-- A command that writes neither a station nor an input of an image. -/
theorem writes {t : State} (fields : List (Nat × Nat)) (port : t.port = (s.reported fields).port)
    (pending : t.pending = s.pending) (sense : t.sense = s.sense) (stations : t.stations = s.stations)
    (inputs : ∀ n, t.imageInputs n = s.imageInputs n) : Answered s i k t :=
  .accepted t fields port pending (fun _ _ _ => sense) fun n _ =>
    pendingRecomputed_same (inputs n) (by rw [State.live, stations, State.live])

theorem reads (fields : List (Nat × Nat)) : Answered s i k (s.reported fields) :=
  writes fields rfl rfl rfl rfl fun _ => rfl

/-- A command that recomputes the images, its action leaving image pending alone where no rule of its own sets it. -/
theorem acts {after : State} (fields : List (Nat × Nat)) (pending : after.pending = s.pending) (sense : after.sense = s.sense)
    (images : ∀ n, ¬ s.PendingSetBy i n → (after.live n).imagePending = (s.live n).imagePending) :
    Answered s i k (s.acted after fields) :=
  .accepted _ fields rfl pending (fun _ _ _ => sense) fun n h => pendingRecomputed_acted fields (images n h)

theorem edits {after : State} (fields : List (Nat × Nat)) (pending : after.pending = s.pending) (sense : after.sense = s.sense)
    (stations : after.stations = s.stations) : Answered s i k (s.edited after fields) :=
  acts fields pending sense fun n _ => by
    show (State.live { after with sweeper := s.sweeper.afterEdit } n).imagePending = _
    rw [State.live, State.live, stations]

end Answered

theorem checkSetMode_error {s : State} {code : Nat} {r : ResultCode} (h : checkSetMode s code = .error r) : r ≠ .ok := by
  unfold checkSetMode at h
  split at h
  · cases h
    decide
  · split_ifs at h <;> cases h <;> decide

/-- A write of a station sets image pending by itself only where it unenrolls it or enrolls it from HEARD (R21). -/
theorem imagePending_adjustEnrollment {s : State} {station enrolled count authority : Byte} {base : Half} {n : Nat}
    (c : StationConfig)
    (unset : ¬ s.PendingSetBy (.writeStation station enrolled base count authority) n) :
    (((s.setSlot station.toNat c).adjustEnrollment station.toNat (s.slot station.toNat).enrolled
      (readYes enrolled)).live n).imagePending = (s.live n).imagePending := by
  rw [live_adjustEnrollment]
  split
  · rename_i h
    obtain ⟨rfl, _⟩ := h
    show ((s.live station.toNat).adjusted (s.slot station.toNat).enrolled (readYes enrolled)).imagePending = _
    have kept : ¬ ((s.slot station.toNat).enrolled = true ∧ enrolled = 0 ∨
        (s.slot station.toNat).enrolled = false ∧ enrolled ≠ 0 ∧ (s.live station.toNat).presence = .heard) :=
      fun h => unset ⟨rfl, h⟩
    unfold StationLive.adjusted
    split
    · rename_i enrolls
      unfold StationLive.enrolling
      split
      · rename_i heard
        exact absurd (Or.inr ⟨enrolls.1, by simpa [readYes] using enrolls.2, heard⟩) kept
      · rfl
    · split
      · rename_i leaves
        exact absurd (Or.inl ⟨leaves.1, by simpa [readYes] using leaves.2⟩) kept
      · rfl
  · rfl

/-- The loop that LOOP_RESTART names is the one whose number it gives (R39). -/
theorem loopParameter_some {parameter : Byte} {loop : Loop} (h : loopParameter parameter = some loop) :
    parameter.toNat = loopNumber loop := by
  unfold loopParameter at h
  split at h
  · cases h
    assumption
  · split at h
    · cases h
      assumption
    · cases h

theorem imagePending_restartLoop {s : State} {parameter : Byte} {loop : Loop} {n : Nat}
    (named : loopParameter parameter = some loop) (unset : ¬ s.PendingSetBy (.loopRestart parameter) n) :
    ((s.restartLoop loop).live n).imagePending = (s.live n).imagePending := by
  rw [live_restartLoop, if_neg]
  rintro ⟨rfl, _⟩
  exact unset (loopParameter_some named)

/-- The sense record is no input of an image. -/
theorem pendingRecomputed_writeSense {s t : State} {n : Nat} (command : Byte) (result : ResultCode) (ref : SenseRef)
    (h : s.PendingRecomputed t n) : s.PendingRecomputed (t.writeSense command result ref) n := h

theorem adjustEnrollment_pending (s : State) (n : Nat) (was now : Bool) : (s.adjustEnrollment n was now).pending = s.pending := by
  rw [adjustEnrollment_frame]

theorem adjustEnrollment_sense (s : State) (n : Nat) (was now : Bool) : (s.adjustEnrollment n was now).sense = s.sense := by
  rw [adjustEnrollment_frame]

theorem zoneWritten_frame (s : State) (m : Mode) (z : Nat) (v : ZoneMinimum) :
    s.zoneWritten m z v =
      { s with config := { s.config with zoneMinimums := s.config.zoneMinimums.set (zoneIndex m z) v },
               holds := (s.zoneWritten m z v).holds } := by
  unfold State.zoneWritten
  by_cases h : m = s.mode
  · rw [if_pos h]
    rfl
  · rw [if_neg h]

section
variable {s : State} (hp : s.powered = true)
include hp

theorem answered_badCommand {c : Byte} (h : c ∉ commandCodes) :
    ∃ t, exec (.badCommand c) s = .next t ∧ Answered s (.badCommand c) c t :=
  ⟨_, exec_badCommand hp h, .refused _ _ _ (by decide)⟩

theorem answered_nop :
    ∃ t, exec .nop s = .next t ∧ Answered s .nop 0x00 t :=
  ⟨_, exec_nop hp, .reads _⟩

theorem answered_identify :
    ∃ t, exec .identify s = .next t ∧ Answered s .identify 0x01 t :=
  ⟨_, exec_identify hp, .reads _⟩

theorem answered_writeStation (station enrolled : Byte) (base : Half) (count authority : Byte) :
    ∃ t, exec (.writeStation station enrolled base count authority) s = .next t ∧
      Answered s (.writeStation station enrolled base count authority) 0x08 t := by
  refine ⟨_, exec_writeStation hp .., ?_⟩
  simp only []
  split
  · exact .refused _ _ _ (by decide)
  · exact .acts _ (adjustEnrollment_pending _ _ _ _) (adjustEnrollment_sense _ _ _ _) fun n unset =>
      imagePending_adjustEnrollment _ unset

theorem answered_readStation (station : Byte) :
    ∃ t, exec (.readStation station) s = .next t ∧ Answered s (.readStation station) 0x09 t := by
  refine ⟨_, exec_readStation hp .., ?_⟩
  simp only []
  split
  · exact .refused _ _ _ (by decide)
  · exact .reads _

theorem answered_loopRestart (parameter : Byte) :
    ∃ t, exec (.loopRestart parameter) s = .next t ∧ Answered s (.loopRestart parameter) 0x0A t := by
  refine ⟨_, exec_loopRestart hp .., ?_⟩
  split
  · exact .refused _ _ _ (by decide)
  · rename_i loop named
    refine .acts _ ?_ ?_ fun n unset => imagePending_restartLoop named unset
    · rw [restartLoop_frame]
    · rw [restartLoop_frame]

theorem answered_writeBinding (index : Half) (record : BitVec 72) :
    ∃ t, exec (.writeBinding index record) s = .next t ∧ Answered s (.writeBinding index record) 0x10 t := by
  refine ⟨_, exec_writeBinding hp .., ?_⟩
  simp only []
  split
  · exact .refused _ _ _ (by decide)
  split
  · exact .refused _ _ _ (by decide)
  split
  · exact .edits _ rfl rfl rfl
  split
  · exact .edits _ rfl rfl rfl
  · exact .refused _ _ _ (by decide)

theorem answered_readBinding (index : Half) :
    ∃ t, exec (.readBinding index) s = .next t ∧ Answered s (.readBinding index) 0x11 t := by
  refine ⟨_, exec_readBinding hp .., ?_⟩
  split
  · exact .refused _ _ _ (by decide)
  · exact .reads _

theorem answered_clearBinding (index : Half) :
    ∃ t, exec (.clearBinding index) s = .next t ∧ Answered s (.clearBinding index) 0x12 t := by
  refine ⟨_, exec_clearBinding hp .., ?_⟩
  simp only []
  split
  · exact .refused _ _ _ (by decide)
  split
  · exact .refused _ _ _ (by decide)
  · exact .edits _ rfl rfl rfl

theorem answered_writeCircuit (circuit : Half) (egress : Byte) (floor : Half) (house participant curve mergeRule : Byte) :
    ∃ t, exec (.writeCircuit circuit egress floor house participant curve mergeRule) s = .next t ∧
      Answered s (.writeCircuit circuit egress floor house participant curve mergeRule) 0x18 t := by
  refine ⟨_, exec_writeCircuit hp .., ?_⟩
  simp only []
  split
  · exact .refused _ _ _ (by decide)
  split
  · exact .refused _ _ _ (by decide)
  split
  · split
    · exact .refused _ _ _ (by decide)
    · exact .edits _ rfl rfl rfl
  · exact .refused _ _ _ (by decide)

theorem answered_readCircuit (circuit : Half) :
    ∃ t, exec (.readCircuit circuit) s = .next t ∧ Answered s (.readCircuit circuit) 0x19 t := by
  refine ⟨_, exec_readCircuit hp .., ?_⟩
  simp only []
  split
  · exact .refused _ _ _ (by decide)
  · exact .reads _

theorem answered_retireCircuit (circuit : Half) :
    ∃ t, exec (.retireCircuit circuit) s = .next t ∧ Answered s (.retireCircuit circuit) 0x1A t := by
  refine ⟨_, exec_retireCircuit hp .., ?_⟩
  simp only []
  split
  · exact .refused _ _ _ (by decide)
  split
  · exact .refused _ _ _ (by decide)
  split
  · exact .refused _ _ _ (by decide)
  split
  · exact .writes _ rfl rfl rfl rfl fun _ => rfl
  · exact .edits _ rfl rfl rfl

theorem answered_restoreCircuit (circuit : Half) :
    ∃ t, exec (.restoreCircuit circuit) s = .next t ∧ Answered s (.restoreCircuit circuit) 0x1B t := by
  refine ⟨_, exec_restoreCircuit hp .., ?_⟩
  simp only []
  split
  · exact .refused _ _ _ (by decide)
  split
  · exact .refused _ _ _ (by decide)
  · exact .edits _ rfl rfl rfl

theorem answered_listHolds (circuit position : Half) :
    ∃ t, exec (.listHolds circuit position) s = .next t ∧ Answered s (.listHolds circuit position) 0x1C t := by
  refine ⟨_, exec_listHolds hp .., ?_⟩
  simp only []
  split
  · exact .refused _ _ _ (by decide)
  split
  · exact .reads _
  · exact .refused _ _ _ (by decide)

theorem answered_groupAdd (group : Byte) (circuit : Half) :
    ∃ t, exec (.groupAdd group circuit) s = .next t ∧ Answered s (.groupAdd group circuit) 0x20 t := by
  refine ⟨_, exec_groupAdd hp .., ?_⟩
  simp only []
  split
  · exact .refused _ _ _ (by decide)
  split
  · exact .refused _ _ _ (by decide)
  split
  · exact .refused _ _ _ (by decide)
  split
  · exact .refused _ _ _ (by decide)
  · exact .edits _ rfl rfl rfl

theorem answered_groupRemove (group : Byte) (circuit : Half) :
    ∃ t, exec (.groupRemove group circuit) s = .next t ∧ Answered s (.groupRemove group circuit) 0x21 t := by
  refine ⟨_, exec_groupRemove hp .., ?_⟩
  simp only []
  split
  · exact .refused _ _ _ (by decide)
  split
  · exact .refused _ _ _ (by decide)
  split
  · exact .refused _ _ _ (by decide)
  · exact .edits _ rfl rfl rfl

theorem answered_groupRead (group position : Byte) :
    ∃ t, exec (.groupRead group position) s = .next t ∧ Answered s (.groupRead group position) 0x22 t := by
  refine ⟨_, exec_groupRead hp .., ?_⟩
  simp only []
  split
  · exact .refused _ _ _ (by decide)
  split
  · exact .reads _
  · exact .refused _ _ _ (by decide)

theorem answered_presetSetEntry (preset : Byte) (circuit level : Half) :
    ∃ t, exec (.presetSetEntry preset circuit level) s = .next t ∧
      Answered s (.presetSetEntry preset circuit level) 0x23 t := by
  refine ⟨_, exec_presetSetEntry hp .., ?_⟩
  simp only []
  split
  · exact .refused _ _ _ (by decide)
  split
  · exact .refused _ _ _ (by decide)
  split
  · exact .edits _ rfl rfl rfl
  split
  · exact .refused _ _ _ (by decide)
  · exact .edits _ rfl rfl rfl

theorem answered_presetRemoveEntry (preset : Byte) (circuit : Half) :
    ∃ t, exec (.presetRemoveEntry preset circuit) s = .next t ∧ Answered s (.presetRemoveEntry preset circuit) 0x24 t := by
  refine ⟨_, exec_presetRemoveEntry hp .., ?_⟩
  simp only []
  split
  · exact .refused _ _ _ (by decide)
  split
  · exact .refused _ _ _ (by decide)
  split
  · exact .refused _ _ _ (by decide)
  · exact .edits _ rfl rfl rfl

theorem answered_presetSetAttr (preset : Byte) (fade : Half) (zone : Byte) :
    ∃ t, exec (.presetSetAttr preset fade zone) s = .next t ∧ Answered s (.presetSetAttr preset fade zone) 0x25 t := by
  refine ⟨_, exec_presetSetAttr hp .., ?_⟩
  simp only []
  split
  · exact .refused _ _ _ (by decide)
  split
  · exact .refused _ _ _ (by decide)
  · exact .edits _ rfl rfl rfl

theorem answered_presetRead (preset position : Byte) :
    ∃ t, exec (.presetRead preset position) s = .next t ∧ Answered s (.presetRead preset position) 0x26 t := by
  refine ⟨_, exec_presetRead hp .., ?_⟩
  simp only []
  split
  · exact .refused _ _ _ (by decide)
  split
  · exact .reads _
  · exact .refused _ _ _ (by decide)

theorem answered_placeHold (channel targetKind : Byte) (number level fade : Half) (priority : Byte) :
    ∃ t, exec (.placeHold channel targetKind number level fade priority) s = .next t ∧
      Answered s (.placeHold channel targetKind number level fade priority) 0x28 t := by
  refine ⟨_, exec_placeHold hp .., ?_⟩
  simp only []
  split
  · exact .refused _ _ _ (by decide)
  split
  · exact .refused _ _ _ (by decide)
  split
  · exact .refused _ _ _ (by split <;> decide)
  split
  · exact .refused _ _ _ (by decide)
  · exact .acts _ rfl rfl fun _ _ => rfl

theorem answered_releaseHold (channel targetKind : Byte) (number : Half) :
    ∃ t, exec (.releaseHold channel targetKind number) s = .next t ∧
      Answered s (.releaseHold channel targetKind number) 0x29 t := by
  refine ⟨_, exec_releaseHold hp .., ?_⟩
  simp only []
  split
  · exact .refused _ _ _ (by decide)
  split
  · exact .refused _ _ _ (by decide)
  · exact .acts _ rfl rfl fun _ _ => rfl

theorem answered_recallPreset (preset priority : Byte) :
    ∃ t, exec (.recallPreset preset priority) s = .next t ∧ Answered s (.recallPreset preset priority) 0x2A t := by
  refine ⟨_, exec_recallPreset hp .., ?_⟩
  simp only []
  split
  · exact .refused _ _ _ (by decide)
  split
  · exact .refused _ _ _ (by decide)
  split
  · exact .refused _ _ _ (by decide)
  split
  · exact .refused _ _ _ (by decide)
  · exact .acts _ rfl rfl fun _ _ => rfl

theorem answered_releasePreset (preset : Byte) :
    ∃ t, exec (.releasePreset preset) s = .next t ∧ Answered s (.releasePreset preset) 0x2B t := by
  refine ⟨_, exec_releasePreset hp .., ?_⟩
  split
  · exact .refused _ _ _ (by decide)
  · exact .acts _ rfl rfl fun _ _ => rfl

theorem answered_releaseOwner (index : Half) :
    ∃ t, exec (.releaseOwner index) s = .next t ∧ Answered s (.releaseOwner index) 0x2C t := by
  refine ⟨_, exec_releaseOwner hp .., ?_⟩
  split
  · exact .refused _ _ _ (by decide)
  · exact .acts _ rfl rfl fun _ _ => rfl

theorem answered_setMode (request : Byte) :
    ∃ t, exec (.setMode request) s = .next t ∧ Answered s (.setMode request) 0x30 t := by
  refine ⟨_, exec_setMode hp .., ?_⟩
  split
  · rename_i r refused
    exact .refused _ _ _ (checkSetMode_error refused)
  split
  · exact .reads _
  · exact .acts _ rfl rfl fun _ _ => rfl

theorem answered_setZoneMinimum (mode zone value : Byte) :
    ∃ t, exec (.setZoneMinimum mode zone value) s = .next t ∧ Answered s (.setZoneMinimum mode zone value) 0x31 t := by
  refine ⟨_, exec_setZoneMinimum hp .., ?_⟩
  split
  · split
    · exact .refused _ _ _ (by decide)
    · rw [zoneWritten_frame]
      exact .acts _ rfl rfl fun _ _ => rfl
  · exact .refused _ _ _ (by decide)

theorem answered_setHoldoverLevel (level : Half) :
    ∃ t, exec (.setHoldoverLevel level) s = .next t ∧ Answered s (.setHoldoverLevel level) 0x32 t := by
  refine ⟨_, exec_setHoldoverLevel hp .., ?_⟩
  split
  · exact .refused _ _ _ (by decide)
  · exact .acts _ rfl rfl fun _ _ => rfl

theorem answered_lockTake (period : Byte) :
    ∃ t, exec (.lockTake period) s = .next t ∧ Answered s (.lockTake period) 0x33 t := by
  refine ⟨_, exec_lockTake hp .., ?_⟩
  split
  · exact .refused _ _ _ (by decide)
  split
  · exact .refused _ _ _ (by decide)
  · exact .writes _ rfl rfl rfl rfl fun _ => rfl

theorem answered_lockRenew (toggle : Byte) :
    ∃ t, exec (.lockRenew toggle) s = .next t ∧ Answered s (.lockRenew toggle) 0x34 t := by
  refine ⟨_, exec_lockRenew hp .., ?_⟩
  split
  · exact .refused _ _ _ (by decide)
  split
  · exact .refused _ _ _ (by decide)
  · split
    · exact .refused _ _ _ (by decide)
    · exact .writes _ rfl rfl rfl rfl fun _ => rfl
  · split
    · exact .refused _ _ _ (by decide)
    split
    · exact .lapsed toggle rfl
    · exact .writes _ rfl rfl rfl rfl fun _ => rfl

theorem answered_lockGive :
    ∃ t, exec .lockGive s = .next t ∧ Answered s .lockGive 0x35 t := by
  refine ⟨_, exec_lockGive hp, ?_⟩
  split
  · exact .refused _ _ _ (by decide)
  · exact .writes _ rfl rfl rfl rfl fun _ => rfl

theorem answered_panic :
    ∃ t, exec .panic s = .next t ∧ Answered s .panic 0x36 t := by
  refine ⟨_, exec_panic hp, ?_⟩
  rw [enterPanic_frame]
  exact .acts _ rfl rfl fun _ _ => rfl

theorem answered_clearPanic :
    ∃ t, exec .clearPanic s = .next t ∧ Answered s .clearPanic 0x37 t := by
  refine ⟨_, exec_clearPanic hp, ?_⟩
  split
  · exact .acts _ rfl rfl fun _ _ => rfl
  · exact .refused _ _ _ (by decide)

theorem answered_retarget (oldCircuit newCircuit : Half) :
    ∃ t, exec (.retarget oldCircuit newCircuit) s = .next t ∧ Answered s (.retarget oldCircuit newCircuit) 0x38 t := by
  refine ⟨_, exec_retarget hp .., ?_⟩
  simp only []
  split
  · exact .refused _ _ _ (by decide)
  split
  · exact .refused _ _ _ (by decide)
  split
  · exact .refused _ _ _ (by decide)
  split
  · exact .acts _ rfl rfl fun _ _ => rfl
  · exact .acts _ rfl rfl fun _ _ => rfl

theorem answered_sweepAbort :
    ∃ t, exec .sweepAbort s = .next t ∧ Answered s .sweepAbort 0x39 t := by
  refine ⟨_, exec_sweepAbort hp, ?_⟩
  split
  · exact .accepted _ _ rfl rfl (fun _ h => absurd rfl h) fun _ _ =>
      pendingRecomputed_writeSense _ _ _ (pendingRecomputed_acted _ rfl)
  · exact .refused _ _ _ (by decide)

theorem answered_save :
    ∃ t, exec .save s = .next t ∧ Answered s .save 0x3A t := by
  refine ⟨_, exec_save hp, ?_⟩
  split
  · exact .refused _ _ _ (by decide)
  · exact .writes _ rfl rfl rfl rfl fun _ => rfl

theorem answered_readSense :
    ∃ t, exec .readSense s = .next t ∧ Answered s .readSense 0x40 t :=
  ⟨_, exec_readSense hp, .accepted _ _ rfl rfl (fun h => absurd rfl h) fun _ _ => pendingRecomputed_same rfl rfl⟩

theorem answered_readRefusal :
    ∃ t, exec .readRefusal s = .next t ∧ Answered s .readRefusal 0x41 t :=
  ⟨_, exec_readRefusal hp, .writes _ rfl rfl rfl rfl fun _ => rfl⟩

theorem answered_readEvents :
    ∃ t, exec .readEvents s = .next t ∧ Answered s .readEvents 0x42 t :=
  ⟨_, exec_readEvents hp, .writes _ rfl rfl rfl rfl fun _ => rfl⟩

theorem answered_eventMask (station press circuit rack mode sweep store : Byte) :
    ∃ t, exec (.eventMask station press circuit rack mode sweep store) s = .next t ∧
      Answered s (.eventMask station press circuit rack mode sweep store) 0x43 t :=
  ⟨_, exec_eventMask hp .., .writes _ rfl rfl rfl rfl fun _ => rfl⟩

theorem answered_restart :
    ∃ t, exec .restart s = .next t ∧ Answered s .restart 0x44 t :=
  ⟨_, exec_restart hp, .accepted _ _ rfl rfl (fun _ _ h => absurd rfl h) fun _ unset => absurd trivial unset⟩

/-- A host command with power answers as `Answered` says, but for a term that is no command. -/
theorem exec_answered {i : Instr} {k : Byte} (code : i.code = some k) (named : ∀ c ∈ commandCodes, i ≠ .badCommand c) :
    ∃ t, exec i s = .next t ∧ Answered s i k t := by
  cases i with
  | badCommand c =>
    cases code
    exact answered_badCommand hp fun h => named _ h rfl
  | nop =>
    cases code
    exact answered_nop hp
  | identify =>
    cases code
    exact answered_identify hp
  | writeStation =>
    cases code
    exact answered_writeStation hp ..
  | readStation =>
    cases code
    exact answered_readStation hp ..
  | loopRestart =>
    cases code
    exact answered_loopRestart hp ..
  | writeBinding =>
    cases code
    exact answered_writeBinding hp ..
  | readBinding =>
    cases code
    exact answered_readBinding hp ..
  | clearBinding =>
    cases code
    exact answered_clearBinding hp ..
  | writeCircuit =>
    cases code
    exact answered_writeCircuit hp ..
  | readCircuit =>
    cases code
    exact answered_readCircuit hp ..
  | retireCircuit =>
    cases code
    exact answered_retireCircuit hp ..
  | restoreCircuit =>
    cases code
    exact answered_restoreCircuit hp ..
  | listHolds =>
    cases code
    exact answered_listHolds hp ..
  | groupAdd =>
    cases code
    exact answered_groupAdd hp ..
  | groupRemove =>
    cases code
    exact answered_groupRemove hp ..
  | groupRead =>
    cases code
    exact answered_groupRead hp ..
  | presetSetEntry =>
    cases code
    exact answered_presetSetEntry hp ..
  | presetRemoveEntry =>
    cases code
    exact answered_presetRemoveEntry hp ..
  | presetSetAttr =>
    cases code
    exact answered_presetSetAttr hp ..
  | presetRead =>
    cases code
    exact answered_presetRead hp ..
  | placeHold =>
    cases code
    exact answered_placeHold hp ..
  | releaseHold =>
    cases code
    exact answered_releaseHold hp ..
  | recallPreset =>
    cases code
    exact answered_recallPreset hp ..
  | releasePreset =>
    cases code
    exact answered_releasePreset hp ..
  | releaseOwner =>
    cases code
    exact answered_releaseOwner hp ..
  | setMode =>
    cases code
    exact answered_setMode hp ..
  | setZoneMinimum =>
    cases code
    exact answered_setZoneMinimum hp ..
  | setHoldoverLevel =>
    cases code
    exact answered_setHoldoverLevel hp ..
  | lockTake =>
    cases code
    exact answered_lockTake hp ..
  | lockRenew =>
    cases code
    exact answered_lockRenew hp ..
  | lockGive =>
    cases code
    exact answered_lockGive hp
  | panic =>
    cases code
    exact answered_panic hp
  | clearPanic =>
    cases code
    exact answered_clearPanic hp
  | retarget =>
    cases code
    exact answered_retarget hp ..
  | sweepAbort =>
    cases code
    exact answered_sweepAbort hp
  | save =>
    cases code
    exact answered_save hp
  | readSense =>
    cases code
    exact answered_readSense hp
  | readRefusal =>
    cases code
    exact answered_readRefusal hp
  | readEvents =>
    cases code
    exact answered_readEvents hp
  | eventMask =>
    cases code
    exact answered_eventMask hp ..
  | restart =>
    cases code
    exact answered_restart hp
  | _ => cases code

end

end Sys2Proof.Machine
end

section
/-! What each event leaves of a part with power, one equation per event; and what every event does to the queue of commands and
to image pending. -/
namespace Sys2Proof.Machine

open State

section
variable {s : State} (hp : s.powered = true)
include hp

theorem exec_poll (loop : Loop) :
    exec (.poll loop) s = .next (
      if (s.loopState loop).inFlight.isSome then s
      else match s.nextPoll loop with
        | some a => s.sendPoll loop { s.loopState loop with position := a } a false
        | none => s) := whenPowered_on hp _

theorem exec_discoveryPoll (loop : Loop) :
    exec (.discoveryPoll loop) s = .next (
      if (s.loopState loop).inFlight.isSome ∨ (s.nextEnrolled loop (s.loopState loop).position).isSome then s
      else match s.nextDiscovery loop (s.loopState loop).cursor with
        | some a => s.sendPoll loop { s.loopState loop with position := 0, cursor := a } a true
        | none => s.setLoop loop { s.loopState loop with position := 0 }) := whenPowered_on hp _

theorem exec_idleReply (loop : Loop) (address : BitVec 6) :
    exec (.idleReply loop address) s = .next (s.replyOn loop address.toNat true fun t _ => t) := whenPowered_on hp _

theorem exec_keyReport (loop : Loop) (address : BitVec 6) (bit : Bool) (ts : List Transition) :
    exec (.keyReport loop address bit ts) s = .next
      (s.replyOn loop address.toNat (reportFits ts) fun t n => t.takeReport loop n bit ts) := whenPowered_on hp _

theorem exec_stationMiss (loop : Loop) :
    exec (.stationMiss loop) s = .next (s.replyOn loop 0 false fun t _ => t) := whenPowered_on hp _

theorem exec_pressEdge : exec .pressEdge s = .next (s.resolveNext .press State.resolvePress) := whenPowered_on hp _

theorem exec_releaseEdge : exec .releaseEdge s = .next (s.resolveNext .release State.resolveRelease) := whenPowered_on hp _

theorem exec_fadeStep :
    exec .fadeStep s = .next (s.recomputeImages
      { s with holds := s.holds.filterMap Hold.stepped,
               timers := { s.timers with fadeStep := s.timers.fadeStep + Config.fadeTicks } }) := whenPowered_on hp _

theorem exec_minuteTimer :
    exec .minuteTimer s = .next (s.recomputeImages
      { s with holds := s.holds.filterMap Hold.minuted,
               timers := { s.timers with minute := s.timers.minute + Config.minuteTicks } }) := whenPowered_on hp _

theorem exec_panicInputActive :
    exec .panicInputActive s = .next (s.recomputeImages ({ s with panicLatch := true }.enterPanic .panicInput)) :=
  whenPowered_on hp _

theorem exec_panicInputInactive : exec .panicInputInactive s = .next { s with panicLatch := false } := whenPowered_on hp _

theorem exec_lockTimerExpiry :
    exec .lockTimerExpiry s = .next (if s.lockRunOut then s.recomputeImages (s.lapse .late) else s) := whenPowered_on hp _

theorem exec_refreshTimer (rack : BitVec 2) :
    exec (.refreshTimer rack) s = .next
      { s.setRack rack.toNat { s.rack rack.toNat with lastSent := s.rackCodes rack.toNat } with
        rackInFlight := some rack.toNat
        timers := { s.timers with
          refresh := s.timers.refresh.set rack.toNat (s.timers.refresh.get 0 rack.toNat + Config.refreshTicks) } } :=
  whenPowered_on hp _

theorem exec_statusReply (rack : BitVec 2) (entries : List FaultEntry) :
    exec (.statusReply rack entries) s = .next (s.recomputeImages (s.endTransaction (some (rack.toNat, entries)))) :=
  whenPowered_on hp _

theorem exec_rackMiss : exec .rackMiss s = .next (s.endTransaction none) := whenPowered_on hp _

theorem exec_faultMinuteTimer :
    exec .faultMinuteTimer s = .next
      { s with circuits := s.circuits.map CircuitLive.decayed,
               timers := { s.timers with faultMinute := s.timers.faultMinute + Config.minuteTicks } } := whenPowered_on hp _

theorem exec_sweepVisit :
    exec .sweepVisit s = .next (
      match s.sweeper.state with
      | .sweeping job => s.recomputeImages (s.visit job)
      | _ => s) := whenPowered_on hp _

theorem exec_saveCompletion :
    exec .saveCompletion s = .next (
      match s.store with
      | .writing snapshot _ => { s with store := .valid snapshot }.latchStore .saved
      | _ => s) := whenPowered_on hp _

end

/-! ## Events and the queue, events and image pending -/

/-- What the event `i` leaves: the queue of commands, and of every image what the recomputation gives where no rule of its own
sets image pending. -/
def Handled (s : State) (i : Instr) (t : State) : Prop :=
  t.pending = s.pending ∧ ∀ n, ¬ s.PendingSetBy i n → s.PendingRecomputed t n

namespace Handled

variable {s after : State} {i : Instr}

theorem same : Handled s i s := ⟨rfl, fun _ _ => pendingRecomputed_same rfl rfl⟩

/-- An event that changes neither the inputs of an image nor its image pending. -/
theorem writes {t : State} (pending : t.pending = s.pending) (inputs : ∀ n, t.imageInputs n = s.imageInputs n)
    (images : ∀ n, ¬ s.PendingSetBy i n → (t.live n).imagePending = (s.live n).imagePending) : Handled s i t :=
  ⟨pending, fun n unset => pendingRecomputed_same (inputs n) (images n unset)⟩

theorem recomputes (pending : after.pending = s.pending)
    (images : ∀ n, (after.live n).imagePending = (s.live n).imagePending) : Handled s i (s.recomputeImages after) :=
  ⟨pending, fun n _ => pendingRecomputed_recomputed rfl (images n)⟩

theorem recomputes_of_stations (pending : after.pending = s.pending) (stations : after.stations = s.stations) :
    Handled s i (s.recomputeImages after) :=
  recomputes pending fun n => by rw [State.live, stations, State.live]

end Handled

/-! ### The loops -/

theorem imageInputs_setLoop (s : State) (loop : Loop) (v : LoopState) (n : Nat) :
    (s.setLoop loop v).imageInputs n = s.imageInputs n := by
  cases loop <;> rfl

theorem live_setLoop (s : State) (loop : Loop) (v : LoopState) (n : Nat) : (s.setLoop loop v).live n = s.live n := by
  cases loop <;> rfl

theorem live_sendPoll (s : State) (loop : Loop) (next : LoopState) (a : Nat) (discovery : Bool) (n : Nat) :
    (s.sendPoll loop next a discovery).live n =
      if stationNumber loop a = n ∧ n < 128 then { s.live n with answer := .none } else s.live n := by
  rw [sendPoll, live_setLoop, live_setLive]
  split
  · rename_i h
    rw [h.1]
  · rfl

theorem handled_sendPoll {s : State} {i : Instr} (loop : Loop) (next : LoopState) (a : Nat) (discovery : Bool) :
    Handled s i (s.sendPoll loop next a discovery) := by
  refine .writes (by rw [sendPoll_frame]) (fun n => imageInputs_setLoop _ _ _ _) fun n _ => ?_
  rw [live_sendPoll]
  split <;> rfl

theorem live_takeReport_imagePending (s : State) (loop : Loop) (m : Nat) (bit : Bool) (ts : List Transition) (n : Nat) :
    ((s.takeReport loop m bit ts).live n).imagePending = (s.live n).imagePending := by
  have written {v : StationLive} (kept : v.imagePending = (s.live m).imagePending) :
      ((s.setLive m v).live n).imagePending = (s.live n).imagePending := by
    rw [live_setLive]
    split
    · rename_i h
      rw [kept, h.1]
    · rfl
  unfold State.takeReport
  simp only []
  split
  · refine written ?_
    unfold StationLive.unenrolledReport
    split <;> rfl
  split
  · exact written rfl
  split
  · exact written (v := { s.live m with answer := .ack bit, expected := some (!bit) }) rfl
  · exact written rfl

theorem handled_takeMiss {s : State} {i : Instr} (loop : Loop) (p : PollSent) :
    Handled s i (s.recomputeImages (s.takeMiss loop p)) := by
  refine .recomputes (by rw [takeMiss_frame]) fun n => ?_
  rw [live_takeMiss]
  split
  · exact (missed_image _ _).2
  · rfl

/-- A reply on a loop sets image pending by a rule of its own only of the station whose poll it answers. -/
theorem handled_replyOn {s : State} {i : Instr} (loop : Loop) (address : Nat) (valid : Bool) (contents : State → Nat → State)
    (pending : ∀ t n, (contents t n).pending = t.pending) (inputs : ∀ t m n, (contents t m).imageInputs n = t.imageInputs n)
    (images : ∀ t m n, ((contents t m).live n).imagePending = (t.live n).imagePending)
    (answers : ∀ p, (s.loopState loop).inFlight = some p → valid = true → address = p.address →
      s.PendingSetBy i (stationNumber loop p.address)) :
    Handled s i (s.replyOn loop address valid contents) := by
  unfold State.replyOn
  split
  · exact .same
  · rename_i p inFlight
    split
    · rename_i valid_answer
      refine .writes ?_ (fun n => ?_) fun n unset => ?_
      · rw [pending, takeReply_frame]
      · rw [inputs, takeReply_frame]
        rfl
      · rw [images, live_takeReply_other]
        rintro rfl
        exact unset (answers p inFlight valid_answer.1 valid_answer.2)
    · exact handled_takeMiss loop p

theorem inFlight_answered {s : State} {loop : Loop} {p : PollSent} {a : Nat} (inFlight : (s.loopState loop).inFlight = some p)
    (answers : a = p.address) :
    stationNumber loop p.address = stationNumber loop a ∧
      (s.loopState loop).inFlight.any (fun p => p.address == a) = true := by
  rw [inFlight, answers]
  exact ⟨rfl, by simp⟩

/-! ### The resolver, the rack link and the sweeper -/

theorem imagePending_resolvePress (s : State) (e : PressEntry) (n : Nat) :
    ((s.resolvePress e).live n).imagePending = (s.live n).imagePending := by
  unfold State.resolvePress
  split
  · unfold State.refusePress
    show (((s.latchPress _).setLive e.station _).live n).imagePending = _
    rw [live_setLive]
    split
    · rename_i h
      rw [← h.1]
    · rfl
  · unfold State.performPress
    simp only []
    split
    case h_8 =>
      rw [enterPanic_frame]
      rfl
    case h_3 =>
      split <;> rfl
    all_goals rfl

theorem resolvePress_pending (s : State) (e : PressEntry) : (s.resolvePress e).pending = s.pending := by
  unfold State.resolvePress
  split
  · rfl
  · unfold State.performPress
    simp only []
    split
    case h_8 => rw [enterPanic_frame]
    case h_3 => split <;> rfl
    all_goals rfl

theorem resolveRelease_frame (s : State) (e : PressEntry) :
    s.resolveRelease e = { s with holds := (s.resolveRelease e).holds } := by
  unfold State.resolveRelease
  split
  · rfl
  · unfold State.performRelease
    simp only []
    split <;> rfl

theorem handled_resolveNext {s : State} {i : Instr} (edge : Edge) (resolve : State → PressEntry → State)
    (pending : ∀ t e, (resolve t e).pending = t.pending)
    (images : ∀ t e n, ((resolve t e).live n).imagePending = (t.live n).imagePending) :
    Handled s i (s.resolveNext edge resolve) := by
  unfold State.resolveNext
  split
  · split
    · refine .recomputes ?_ fun n => ?_
      · rw [pending, takeEntry_frame]
      · rw [images, takeEntry_frame]
        rfl
    · exact .same
  · exact .same

theorem endTransaction_frame (s : State) (reply : Option (Nat × List FaultEntry)) :
    s.endTransaction reply =
      { s with config := { s.config with circuits := (s.endTransaction reply).config.circuits },
               circuits := (s.endTransaction reply).circuits, holds := (s.endTransaction reply).holds,
               racks := (s.endTransaction reply).racks, rackInFlight := (s.endTransaction reply).rackInFlight,
               events := (s.endTransaction reply).events } := by
  unfold State.endTransaction
  split
  · rfl
  · rename_i r _
    have missed := rackMissed_frame { s with rackInFlight := none } r
    have replied := rackReplied_frame { s with rackInFlight := none } r
    simp only []
    split
    · rename_i rack entries
      split
      · have counted := countFaults_frame (State.rackReplied { s with rackInFlight := none } r) r entries
        rw [counted, replied]
      · rw [missed]
    · rw [missed]

theorem imageInputs_endTransaction_none (s : State) (n : Nat) : (s.endTransaction none).imageInputs n = s.imageInputs n := by
  unfold State.endTransaction
  split
  · rfl
  · exact rackMissed_inputs { s with rackInFlight := none } _ n

end Sys2Proof.Machine
end

section
/-! Steps and frames: which terms have a next state, what a frame shifts out, what a refusal leaves. -/
namespace Sys2Proof.Machine

open State

/-! ## Every command has a next state -/

/-- The terms that answer no frame: events, and frames that carry no command. -/
theorem exec_handled {s : State} (hp : s.powered = true) {i : Instr} (code : i.code = none)
    (frames : ∀ edges, i = .badFrame edges → ¬ (edges = 8 ∨ edges = 96)) :
    ∃ t, exec i s = .next t ∧ Handled s i t := by
  cases i with
  | startUp p => exact ⟨_, rfl, rfl, fun _ unset => absurd trivial unset⟩
  | powerLoss => exact ⟨_, rfl, .writes rfl (fun _ => rfl) fun _ _ => rfl⟩
  | badFrame edges => exact ⟨_, exec_badFrame hp (frames edges rfl), .writes rfl (fun _ => rfl) fun _ _ => rfl⟩
  | statusOnlyFrame => exact ⟨_, exec_statusOnlyFrame hp, .writes rfl (fun _ => rfl) fun _ _ => rfl⟩
  | poll loop =>
    refine ⟨_, exec_poll hp loop, ?_⟩
    split
    · exact .same
    split
    · exact handled_sendPoll ..
    · exact .same
  | discoveryPoll loop =>
    refine ⟨_, exec_discoveryPoll hp loop, ?_⟩
    split
    · exact .same
    split
    · exact handled_sendPoll ..
    · rw [setLoop_frame]
      exact .writes rfl (fun _ => rfl) fun _ _ => rfl
  | idleReply loop address =>
    exact ⟨_, exec_idleReply hp .., handled_replyOn _ _ _ _ (fun _ _ => rfl) (fun _ _ _ => rfl) (fun _ _ _ => rfl)
      fun _ inFlight _ answers => inFlight_answered inFlight answers⟩
  | keyReport loop address bit ts =>
    refine ⟨_, exec_keyReport hp .., handled_replyOn _ _ _ _ (fun _ _ => ?_) (fun _ _ _ => ?_) (fun _ _ _ => ?_)
      fun _ inFlight _ answers => inFlight_answered inFlight answers⟩
    · rw [takeReport_frame]
    · rw [takeReport_frame]
      rfl
    · exact live_takeReport_imagePending ..
  | stationMiss loop =>
    exact ⟨_, exec_stationMiss hp _, handled_replyOn _ _ _ _ (fun _ _ => rfl) (fun _ _ _ => rfl) (fun _ _ _ => rfl)
      fun _ _ valid => by cases valid⟩
  | pressEdge => exact ⟨_, exec_pressEdge hp, handled_resolveNext _ _ resolvePress_pending imagePending_resolvePress⟩
  | releaseEdge =>
    refine ⟨_, exec_releaseEdge hp, handled_resolveNext _ _ (fun t e => ?_) fun t e n => ?_⟩
    · rw [resolveRelease_frame]
    · rw [resolveRelease_frame]
      rfl
  | fadeStep => exact ⟨_, exec_fadeStep hp, .recomputes_of_stations rfl rfl⟩
  | minuteTimer => exact ⟨_, exec_minuteTimer hp, .recomputes_of_stations rfl rfl⟩
  | panicInputActive =>
    refine ⟨_, exec_panicInputActive hp, ?_⟩
    rw [enterPanic_frame]
    exact .recomputes_of_stations rfl rfl
  | panicInputInactive => exact ⟨_, exec_panicInputInactive hp, .writes rfl (fun _ => rfl) fun _ _ => rfl⟩
  | lockTimerExpiry =>
    refine ⟨_, exec_lockTimerExpiry hp, ?_⟩
    split
    · rw [lapse_frame]
      exact .recomputes_of_stations rfl rfl
    · exact .same
  | refreshTimer rack => exact ⟨_, exec_refreshTimer hp rack, .writes rfl (fun _ => rfl) fun _ _ => rfl⟩
  | statusReply rack entries =>
    refine ⟨_, exec_statusReply hp .., ?_⟩
    rw [endTransaction_frame]
    exact .recomputes_of_stations rfl rfl
  | rackMiss =>
    refine ⟨_, exec_rackMiss hp, .writes ?_ (imageInputs_endTransaction_none s) fun n _ => ?_⟩
    · rw [endTransaction_frame]
    · rw [endTransaction_frame]
      rfl
  | faultMinuteTimer =>
    refine ⟨_, exec_faultMinuteTimer hp, .writes rfl (fun n => ?_) fun _ _ => rfl⟩
    exact imageInputs_of_moving (s := s) (fun c => by rw [circuit_decayed]; rfl) n
  | sweepVisit =>
    refine ⟨_, exec_sweepVisit hp, ?_⟩
    split
    · rw [visit_frame]
      exact .recomputes_of_stations rfl rfl
    · exact .same
  | saveCompletion =>
    refine ⟨_, exec_saveCompletion hp, ?_⟩
    split
    · exact .writes rfl (fun _ => rfl) fun _ _ => rfl
    · exact .same
  | _ => cases code

/-- Without power only a start-up and a power loss change anything (R194, R195). -/
theorem exec_unpowered {s : State} (off : s.powered = false) {i : Instr}
    (frames : ∀ edges, i = .badFrame edges → ¬ (edges = 8 ∨ edges = 96)) (named : ∀ c ∈ commandCodes, i ≠ .badCommand c)
    (starts : ∀ p, i ≠ .startUp p) (stops : i ≠ .powerLoss) : exec i s = .next s := by
  cases i with
  | startUp p => exact absurd rfl (starts p)
  | powerLoss => exact absurd rfl stops
  | badFrame edges => exact (if_neg (frames edges rfl)).trans (whenPowered_off off _)
  | badCommand code =>
    have unnamed : ¬ commandCodes.contains code = true := fun has => named code (by simpa using has) rfl
    exact (if_neg unnamed).trans (hostCommand_off off _)
  | _ => exact whenPowered_off off _

theorem exec_badFrame_illFormed {edges : Nat} (s : State) (h : edges = 8 ∨ edges = 96) :
    exec (.badFrame edges) s = .refused .illFormed := if_pos h

theorem exec_badCommand_illFormed {code : Byte} (s : State) (h : code ∈ commandCodes) :
    exec (.badCommand code) s = .refused .illFormed := if_pos (by simpa using h)

/-- A term that has a next state is a command, or a reply that no station or rack sends (which its own rules take). -/
theorem not_badCommand_of_next {i : Instr} {s t : State} (h : exec i s = .next t) : ∀ c ∈ commandCodes, i ≠ .badCommand c := by
  rintro c named rfl
  rw [exec_badCommand_illFormed s named] at h
  cases h

theorem not_badFrame_of_next {i : Instr} {s t : State} (h : exec i s = .next t) :
    ∀ edges, i = .badFrame edges → ¬ (edges = 8 ∨ edges = 96) := by
  rintro edges rfl ill
  rw [exec_badFrame_illFormed s ill] at h
  cases h

theorem not_badFrame_of_wellFormed {i : Instr} (fits : i.wellFormed = true) :
    ∀ edges, i = .badFrame edges → ¬ (edges = 8 ∨ edges = 96) := by
  rintro edges rfl
  simpa [Instr.wellFormed] using fits

theorem not_badCommand_of_wellFormed {i : Instr} (fits : i.wellFormed = true) : ∀ c ∈ commandCodes, i ≠ .badCommand c := by
  rintro c named rfl
  simp [Instr.wellFormed, named] at fits

/-- Settles O1: `step` on a queue with a front command is `exec` of it on the state with the rest. -/
theorem stepTakesFrontCommand : Obligations.StepTakesFrontCommand := step_front

/-- Settles O2: host commands answer, events are handled, and without power a command changes nothing. -/
theorem commandsComplete : Obligations.CommandsComplete := by
  unfold Obligations.CommandsComplete
  refine ⟨fun c s fits => ?complete, fun edges s h => exec_badFrame_illFormed s h, fun code s h => exec_badCommand_illFormed s h,
    fun s empty on => ?ticks, fun s empty off => ?stands, fun c s off fits =>
      exec_unpowered off (not_badFrame_of_wellFormed fits) (not_badCommand_of_wellFormed fits)⟩
  case complete =>
    cases on : s.powered with
    | true =>
      cases code : c.code with
      | some k =>
        obtain ⟨t, runs, answered⟩ := exec_answered on code (not_badCommand_of_wellFormed fits)
        refine ⟨t, runs, ?_⟩
        cases answered with
        | refused => rfl
        | accepted t fields port pending => exact pending
        | lapsed =>
          have kept : (s.lapse .early).pending = s.pending := by rw [lapse_frame]
          exact kept
      | none =>
        obtain ⟨t, runs, pending, _⟩ := exec_handled on code (not_badFrame_of_wellFormed fits)
        exact ⟨t, runs, pending⟩
    | false =>
      by_cases starts : ∃ p, c = .startUp p
      · obtain ⟨p, rfl⟩ := starts
        exact ⟨_, rfl, rfl⟩
      by_cases stops : c = .powerLoss
      · subst stops
        exact ⟨_, rfl, rfl⟩
      · exact ⟨s, exec_unpowered on (not_badFrame_of_wellFormed fits) (not_badCommand_of_wellFormed fits)
          (fun p h => starts ⟨p, h⟩) stops, rfl⟩
  case ticks => rw [step_idle empty, State.idle, if_pos on]
  case stands => rw [step_idle empty, State.idle, if_neg (by simp [off])]

/-! ## Frames (R178 to R182) -/

/-- Settles O4: each clause is one equation of the command port. -/
theorem framesWithoutAction : Obligations.FramesWithoutAction := by
  unfold Obligations.FramesWithoutAction
  refine ⟨fun s edges on short long => ?badFrame, fun s on => ?statusOnly, fun s on => exec_nop on, fun s code on unnamed => ?badCode⟩
  case badFrame =>
    refine ⟨_, exec_badFrame on (fun h => h.elim short long), rfl, rfl, rfl, ?_, rfl⟩
    simp [State.shiftFrame, leadingBits]
  case statusOnly =>
    rw [exec_statusOnlyFrame on]
    rfl
  case badCode => exact ⟨_, exec_badCommand on unnamed, rfl, rfl, rfl⟩

/-- The status byte is the sum of its fields (R180). -/
theorem statusByte_toNat (s : State) :
    s.statusByte.toNat = s.mode.code + 8 * s.lock.isHeld.toNat + 16 * s.store.busy.toNat + 32 * s.sweeper.active.toNat +
      64 * s.port.frameBad.toNat + 128 * (attention s.events.flags s.mask).toNat := by
  have mode : s.mode.code < 8 := by
    cases s.mode <;> decide
  have lock := Bool.toNat_lt s.lock.isHeld
  have store := Bool.toNat_lt s.store.busy
  have sweeper := Bool.toNat_lt s.sweeper.active
  have frameBad := Bool.toNat_lt s.port.frameBad
  have atn := Bool.toNat_lt (attention s.events.flags s.mask)
  unfold State.statusByte
  simp only [packNat, yesNo, BitVec.toNat_ofNat]
  omega

/-- Settles O5: whatever a host command answers, its frame was shifted first; and the bytes shifted are those of 10.1. -/
theorem commandFramesShiftOldResult : Obligations.CommandFramesShiftOldResult := by
  unfold Obligations.CommandFramesShiftOldResult
  refine ⟨fun c k s t code on runs => ?shifted, fun s => ⟨rfl, rfl, fun j hj => ?data⟩, statusByte_toNat⟩
  case shifted =>
    obtain ⟨u, same, answered⟩ := exec_answered on code (not_badCommand_of_next runs)
    rw [runs] at same
    cases same
    cases answered with
    | refused => exact ⟨rfl, rfl, rfl⟩
    | accepted t fields port =>
      rw [port]
      exact ⟨rfl, rfl, rfl⟩
    | lapsed => exact ⟨rfl, rfl, rfl⟩
  case data =>
    have data : j + 2 ≠ 0 ∧ j + 2 ≠ 1 ∧ j + 2 ≤ 11 := by omega
    rw [State.frameByte, if_neg data.1, if_neg data.2.1, if_pos data.2.2]
    rfl

/-- Settles O7: a refusal is one of the two forms of `Answered`, and an acceptance keeps the sense record but for three
commands. -/
theorem refusalsChangeOnlyReports : Obligations.RefusalsChangeOnlyReports := by
  unfold Obligations.RefusalsChangeOnlyReports
  refine ⟨fun c k s t code renews on runs refused => ?refusal, fun c k s t code reads aborts restarts on runs ok => ?acceptance⟩
  case refusal =>
    obtain ⟨u, same, answered⟩ := exec_answered on code (not_badCommand_of_next runs)
    rw [runs] at same
    cases same
    cases answered with
    | refused result ref fields => exact ⟨ref, rfl, rfl⟩
    | accepted t fields port =>
      rw [port] at refused
      exact absurd rfl refused
    | lapsed toggle command => exact absurd command (renews toggle)
  case acceptance =>
    obtain ⟨u, same, answered⟩ := exec_answered on code (not_badCommand_of_next runs)
    rw [runs] at same
    cases same
    cases answered with
    | refused result ref fields notOk => exact absurd ok notOk
    | accepted t fields port pending sense => exact sense reads aborts restarts
    | lapsed toggle command => exact nomatch (ok : ResultCode.lockState = .ok)

end Sys2Proof.Machine
end

section
/-! The reading commands, the store and the reporting records: each clause is one branch of what the command leaves. -/
namespace Sys2Proof.Machine

open State

/-! ## Reading commands (R15, R22, R94, R102, R121, R126) -/

/-- Settles O20: each command reads the record as it stands. -/
theorem configurationReads : Obligations.ConfigurationReads := by
  unfold Obligations.ConfigurationReads
  refine ⟨fun s station on => ?station, fun s index on => ?binding, fun s group position on => exec_groupRead on group position,
    fun s preset position on => exec_presetRead on preset position⟩
  case station =>
    rw [exec_readStation on]
    cases usable : stationUsable station.toNat <;> simp [usable]
  case binding =>
    rw [exec_readBinding on]
    by_cases beyond : 1023 < index.toNat
    · rw [if_pos beyond, if_neg (by omega)]
    · rw [if_neg beyond, if_pos (by omega)]

/-- Settles O21: a circuit's contribution list is the part of the pool that stands on it. -/
theorem circuitReads : Obligations.CircuitReads :=
  ⟨fun _ circuit on => exec_readCircuit on circuit, fun _ circuit position on => exec_listHolds on circuit position⟩

/-! ## The store (R193, R194) -/

theorem Store.busy_iff (store : Store) : store.busy = true ↔ ∃ snapshot since, store = .writing snapshot since := by
  cases store <;> simp [Store.busy]

/-- A store with no write in progress is as an interruption leaves it. -/
theorem Store.interrupted_of_idle {store : Store} (idle : store.busy = false) : store.interrupted = store := by
  cases store with
  | writing => cases idle
  | valid => rfl
  | invalid => rfl

/-- Settles O34: each clause is one branch of SAVE, SAVE_COMPLETION or POWER_LOSS. -/
theorem saveWritesTheStore : Obligations.SaveWritesTheStore := by
  unfold Obligations.SaveWritesTheStore
  refine ⟨fun s on busy => ?refused, fun s on idle => ?begins, fun s snapshot since on writing => ?completes,
    fun s on idle => ?nothing, fun s snapshot since writing => ?interrupted, fun s idle => ?kept⟩
  case refused => rw [exec_save on, if_pos busy]
  case begins => rw [exec_save on, if_neg (by simp [idle])]
  case completes =>
    rw [exec_saveCompletion on, writing]
    rfl
  case nothing =>
    rw [exec_saveCompletion on]
    split
    · rename_i writing
      rw [writing] at idle
      cases idle
    · rfl
  case interrupted =>
    rw [exec, execPowerLoss, writing]
    rfl
  case kept => rw [exec, execPowerLoss, Store.interrupted_of_idle idle]

/-! ## Reports and restart (R185, R186, R188, R189, R191) -/

/-- Settles O35: each command returns what stands and clears or replaces its own record. -/
theorem reportReads : Obligations.ReportReads :=
  ⟨fun _ on => exec_readSense on, fun _ on => exec_readRefusal on, fun _ on => exec_readEvents on,
    fun _ _ _ _ _ _ _ _ on => exec_eventMask on ..⟩

theorem circuit_cleared {t : State} (circuits : t.circuits = Table.fill 384 CircuitLive.clear) (c : Nat) :
    t.circuit c = CircuitLive.clear := by
  rw [State.circuit, circuits, Table.get_fill, ite_self]

theorem rack_cleared {t : State} (racks : t.racks = Table.fill 4 Rack.fresh) (r : Nat) : t.rack r = Rack.fresh := by
  rw [State.rack, racks, Table.get_fill, ite_self]

/-- Settles O36: RESTART leaves what `restarted` says; the sweeper and the sense record follow the sweep it found. -/
theorem restartKeepsConfiguration : Obligations.RestartKeepsConfiguration := by
  unfold Obligations.RestartKeepsConfiguration
  intro s on
  refine ⟨_, exec_restart on, rfl, rfl, rfl, rfl, rfl, on, rfl, rfl, rfl, rfl, rfl, rfl, live_restarted s, fun loop => ?loops,
    circuit_cleared rfl, rack_cleared rfl, rfl, rfl, rfl, rfl, rfl, fun job sweeping => ?aborted, fun idle => ?kept⟩
  case loops => cases loop <;> rfl
  case aborted =>
    have sweeper : s.sweeper.restarted = { s.sweeper with state := .aborted job } := by
      rw [Sweeper.restarted, sweeping]
    have sense : s.sweeper.restartSense =
        { valid := true, command := 0x44, result := .ok, ref := .sweepPosition job.position, refValid := true,
          earlierUnread := false } := by
      rw [Sweeper.restartSense, sweeping]
    exact ⟨sweeper, sense⟩
  case kept =>
    have notSweeping (job : SweepJob) : s.sweeper.state ≠ .sweeping job := by
      intro sweeping
      rw [Sweeper.active, sweeping] at idle
      cases idle
    have sweeper : s.sweeper.restarted = s.sweeper := by
      unfold Sweeper.restarted
      split
      · rename_i job sweeping
        exact absurd sweeping (notSweeping job)
      · rfl
    have sense : s.sweeper.restartSense = SenseRecord.cleared := by
      unfold Sweeper.restartSense
      split
      · rename_i job sweeping
        exact absurd sweeping (notSweeping job)
      · rfl
    exact ⟨sweeper, sense⟩

end Sys2Proof.Machine
end

section
/-! Start-up, the machine at reset, and the timers. -/
namespace Sys2Proof.Machine

open State

/-! ## Start-up (R195, R196) -/

theorem liveStateEmpty_startedFrom (s : State) (store : Store) (p : Bool) : (s.startedFrom store p).LiveStateEmpty :=
  ⟨rfl, rfl, rfl, rfl, rfl, live_startedFrom s store p, fun loop => by cases loop <;> rfl, circuit_cleared rfl, rfl,
    rack_cleared rfl, rfl, rfl, rfl, rfl, rfl, rfl, rfl⟩

theorem attrs_default {t : State} (config : t.config = Configuration.default) (c : Nat) : t.attrs c = CircuitAttrs.default := by
  rw [State.attrs, config, Configuration.default, Table.get_fill, ite_self]

/-- With the default configuration every circuit is a panic participant, so PANIC runs it at 1000 (R112). -/
theorem outputLevel_default {t : State} (config : t.config = Configuration.default) (mode : t.mode = .panic) (c : Nat) :
    t.outputLevel c = 1000 := by
  rw [State.outputLevel, attrs_default config, mode]
  rfl

theorem rackCode_default {t : State} (config : t.config = Configuration.default) (mode : t.mode = .panic) (c : Nat) :
    t.rackCode c = 255 := by
  rw [State.rackCode, outputLevel_default config mode, attrs_default config]
  rfl

/-- Settles O3: a start-up loads the store as an interruption leaves it. -/
theorem startUpLoadsTheStore : Obligations.StartUpLoadsTheStore := by
  unfold Obligations.StartUpLoadsTheStore
  intro s p
  refine ⟨_, rfl, liveStateEmpty_startedFrom .., rfl, rfl, fun image valid => ?loaded, fun invalid => ?defaulted⟩
  case loaded =>
    rw [valid]
    exact ⟨rfl, rfl, rfl, rfl⟩
  case defaulted =>
    have interrupted : s.store.interrupted = .invalid := by
      cases store : s.store with
      | valid image => exact absurd store (invalid image)
      | invalid => rfl
      | writing => rfl
    rw [interrupted]
    exact ⟨rfl, rfl, rfl, rfl, fun c _ => ⟨outputLevel_default rfl rfl c, rackCode_default rfl rfl c⟩⟩

/-! ## The machine at reset (R196) -/

theorem slot_reset (n : Nat) : (State.reset.slot n).enrolled = false := by
  rw [State.slot, State.reset, Configuration.default, Table.get_fill, ite_self]
  rfl

theorem live_reset (n : Nat) : State.reset.live n = StationLive.fresh (State.reset.slot n).enrolled := by
  rw [slot_reset, State.live, State.reset, Table.get_fill, ite_self]

theorem configurations_reset {Q : Configuration → Prop} (default : Q Configuration.default) :
    ∀ g ∈ State.reset.configurations, Q g := by
  intro g hg
  rw [State.configurations, State.reset, List.mem_singleton] at hg
  exact hg ▸ default

theorem momentaryLaw_reset : State.reset.MomentaryLaw := by
  refine ⟨fun n => ?_, fun h hh => by cases hh⟩
  rw [live_reset]
  exact presenceFits_fresh _

theorem liveStateEmpty_reset : State.reset.LiveStateEmpty :=
  ⟨rfl, rfl, rfl, rfl, rfl, live_reset, fun loop => by cases loop <;> rfl, circuit_cleared rfl, rfl, rack_cleared rfl, rfl, rfl,
    rfl, rfl, rfl, rfl, rfl⟩

/-- Settles O51: the pool and the queue are empty, no circuit carries a mark or a fault, and the configuration is the default. -/
theorem lawsHoldAtReset : Obligations.LawsHoldAtReset := by
  have clear (c : Nat) : State.reset.circuit c = CircuitLive.clear := circuit_cleared rfl c
  unfold Obligations.LawsHoldAtReset
  refine ⟨rfl, Nat.zero_le _, fun show_ => ?lock, fun latch => ?panic, fun c => ?mark, fun c => ?fault,
    ⟨configurations_reset retiredNotEgress_default, fun _ _ => rfl⟩, fun h held => ?parked, ⟨List.nodup_nil, fun h held => ?pool,
    List.nodup_nil⟩, momentaryLaw_reset, configurations_reset listsFit_default, imageLaw_of_fresh live_reset,
    ⟨configurations_reset levelsFit_default, fun h held => ?levels⟩, ⟨fun _ => rfl, fun _ => rfl⟩, liveStateEmpty_reset, rfl,
    rfl, rfl⟩
  case lock => cases show_
  case panic => cases latch
  case parked => cases held
  case pool => cases held
  case levels => cases held
  case mark =>
    rw [clear]
    rfl
  case fault =>
    rw [clear]
    exact Nat.zero_le _

/-! ## The minute timers (R83, R84, R166) -/

/-- One minute of a hold, in the words of R83. -/
theorem Hold.minuted_eq (h : Hold) :
    h.minuted =
      if h.parked = true ∨ h.state = .fadingOut then some h
      else match h.expiry with
        | none => some h
        | some e => if e ≤ 1 then { h with expiry := none }.released else some { h with expiry := some (e - 1) } := by
  have rests : (h.parked || !h.isLive) = true ↔ h.parked = true ∨ h.state = .fadingOut := by
    simp [Hold.isLive]
  rw [Hold.minuted]
  exact if_congr rests rfl rfl

/-- Settles O44: each timer does to every hold, or to every circuit, what its rule says of one. -/
theorem minuteTimers : Obligations.MinuteTimers := by
  unfold Obligations.MinuteTimers
  refine ⟨fun s on => ?minute, fun s on => ?faultMinute⟩
  case minute =>
    refine ⟨_, exec_minuteTimer on, ?_, sameButPending_of_live s fun _ => rfl, rfl⟩
    have minuted : Hold.minuted = _ := funext Hold.minuted_eq
    exact congrArg (fun f => s.holds.filterMap f) minuted
  case faultMinute =>
    refine ⟨_, exec_faultMinuteTimer on, fun c => ?_, rfl⟩
    exact circuit_decayed s c

end Sys2Proof.Machine
end

section
/-! Mode changes, zones, panic and the show lock. -/
namespace Sys2Proof.Machine

open State

/-! ## Mode changes (R136, R138) -/

/-- A mode change whose images are recomputed. -/
theorem modeChanged_recomputed (s : State) (m : Mode) (cause : ModeCause) :
    s.ModeChanged (s.recomputeImages (s.changeMode m cause)) m cause :=
  ⟨rfl, rfl, rfl, sameButPending_of_live s fun _ => rfl⟩

theorem modeChanged_acted (s : State) (m : Mode) (cause : ModeCause) (fields : List (Nat × Nat)) :
    s.ModeChanged (s.acted (s.changeMode m cause) fields) m cause := modeChanged_recomputed s m cause

theorem modeOf_code (m : Mode) : modeOf m.code = some m := by cases m <;> rfl

theorem exists_mode_of_le {n : Nat} (h : n ≤ 5) : ∃ m : Mode, m.code = n := by
  interval_cases n
  · exact ⟨.work, rfl⟩
  · exact ⟨.openHouse, rfl⟩
  · exact ⟨.show, rfl⟩
  · exact ⟨.interval, rfl⟩
  · exact ⟨.holdover, rfl⟩
  · exact ⟨.panic, rfl⟩

theorem modeOf_beyond {n : Nat} (h : 5 < n) : modeOf n = none := by
  obtain ⟨k, rfl⟩ : ∃ k, n = k + 6 := ⟨n - 6, by omega⟩
  rfl

/-- The modes that SET_MODE can ask for are those numbered up to 3; the others are HOLDOVER and PANIC (R138). -/
theorem Mode.settable_iff (m : Mode) : m.code ≤ 3 ↔ ¬ (m = .holdover ∨ m = .panic) := by cases m <;> decide

theorem Mode.code_eq_zero (m : Mode) : m.code = 0 ↔ m = .work := by cases m <;> decide

theorem Mode.code_eq_two (m : Mode) : m.code = 2 ↔ m = .show := by cases m <;> decide

theorem checkSetMode_unknown {s : State} {n : Nat} (h : 3 < n) : checkSetMode s n = .error .badParameter := by
  unfold checkSetMode
  by_cases known : n ≤ 5
  · obtain ⟨m, rfl⟩ := exists_mode_of_le known
    rw [modeOf_code]
    exact if_pos (by_contra fun settable => absurd ((Mode.settable_iff m).mpr settable) (by omega))
  · rw [modeOf_beyond (by omega)]

/-- Checks 2 to 5 of SET_MODE, on a mode that it can ask for (R138). -/
theorem checkSetMode_code (s : State) {m : Mode} (h : m.code ≤ 3) :
    checkSetMode s m.code =
      if s.mode = .panic then .error .modeConflict
      else if m = .work ∧ s.mode = .show then .error .modeConflict
      else if m = .show ∧ s.mode = .work then .error .modeConflict
      else if m = .show ∧ s.lock = .free then .error .lockState
      else .ok m := by
  unfold checkSetMode
  rw [modeOf_code]
  exact if_neg ((Mode.settable_iff m).mp h)

/-- Settles O26: the checks of SET_MODE in their order, then the mode change. -/
theorem setModeFollowsTheTable : Obligations.SetModeFollowsTheTable := by
  unfold Obligations.SetModeFollowsTheTable
  intro s request on
  rw [exec_setMode on]
  refine ⟨fun unknown => ?unknown, fun low conflict => ?conflict, fun shows calm idle free => ?unlocked,
    fun m code low calm notWork notShow locked => ⟨fun same => ?same, fun other => ?other⟩⟩
  case unknown => rw [checkSetMode_unknown unknown]
  case conflict =>
    obtain ⟨m, code⟩ := exists_mode_of_le (n := request.toNat) (by omega)
    rw [← code] at low conflict ⊢
    rw [Mode.code_eq_zero, Mode.code_eq_two] at conflict
    have refused : checkSetMode s m.code = .error .modeConflict := by
      rw [checkSetMode_code s low]
      rcases conflict with panic | ⟨shows, work⟩ | ⟨works, shows⟩
      · rw [if_pos panic]
      · rw [if_neg (by simp [shows]), if_pos ⟨work, shows⟩]
      · rw [if_neg (by simp [works]), if_neg (by simp [works]), if_pos ⟨shows, works⟩]
    rw [refused]
  case unlocked =>
    have refused : checkSetMode s request.toNat = .error .lockState := by
      have asked : request.toNat = Mode.show.code := shows
      rw [asked, checkSetMode_code s (by decide), if_neg calm, if_neg (by simp), if_neg (by simp [idle]), if_pos ⟨rfl, free⟩]
    rw [refused]
  all_goals
    have accepted : checkSetMode s request.toNat = .ok m := by
      rw [← code] at low notWork notShow locked ⊢
      rw [Mode.code_eq_zero] at notWork
      rw [Mode.code_eq_two] at notShow locked
      rw [checkSetMode_code s low, if_neg calm, if_neg fun h => notWork ⟨h.2, h.1⟩, if_neg fun h => notShow ⟨h.2, h.1⟩,
        if_neg fun h => locked h.1 h.2]
    rw [accepted]
  case same =>
    refine ⟨unchangedModeData m, ?_, by simp only [if_pos same]⟩
    unfold unchangedModeData
    split
    · exact Or.inr rfl
    · exact Or.inl rfl
  case other => exact ⟨_, congrArg _ (if_neg other), modeChanged_acted .., rfl, rfl⟩

/-! ## Zones and holdover (R135, R140) -/

theorem zoneMinimumOf_beyond {n : Nat} (h : 4 < n) : zoneMinimumOf n = none := by
  obtain ⟨k, rfl⟩ : ∃ k, n = k + 5 := ⟨n - 5, by omega⟩
  rfl

theorem Mode.code_eq_five (m : Mode) : m.code = 5 ↔ m = .panic := by cases m <;> decide

theorem Mode.code_le_four {m : Mode} (h : m ≠ .panic) : m.code ≤ 4 := by
  cases m
  case panic => exact absurd rfl h
  all_goals decide

theorem Mode.code_injective {m n : Mode} (h : m.code = n.code) : m = n := by
  have same := congrArg modeOf h
  rw [modeOf_code, modeOf_code] at same
  exact Option.some.inj same

/-- Entries of different modes or zones stand apart in the zone minimum table (R134). -/
theorem zoneIndex_eq_iff {m n : Mode} {z w : Nat} (hm : m ≠ .panic) (hn : n ≠ .panic) :
    zoneIndex m z = zoneIndex n w ↔ n = m ∧ w = z := by
  have low := Mode.code_le_four hm
  have low' := Mode.code_le_four hn
  constructor
  · unfold zoneIndex
    intro same
    exact ⟨(Mode.code_injective (by omega)).symm, by omega⟩
  · rintro ⟨rfl, rfl⟩
    rfl

theorem holds_zoneWritten (s : State) (m : Mode) (z : Nat) (v : ZoneMinimum) :
    (s.zoneWritten m z v).holds =
      if m = s.mode then s.holds.map (fun h => { h with parked := (s.zoneWritten m z v).parks h.zone }) else s.holds := by
  by_cases current : m = s.mode
  · have written : s.zoneWritten m z v = State.parkingPass
        { s with config := { s.config with zoneMinimums := s.config.zoneMinimums.set (zoneIndex m z) v } } := if_pos current
    rw [if_pos current, written]
    rfl
  · have written : s.zoneWritten m z v =
        { s with config := { s.config with zoneMinimums := s.config.zoneMinimums.set (zoneIndex m z) v } } := if_neg current
    rw [if_neg current, written]

/-- A zone write acted on, in the words of R135. -/
theorem acted_zoneWritten_frame (s : State) (m : Mode) (z : Nat) (v : ZoneMinimum) (fields : List (Nat × Nat)) :
    s.acted (s.zoneWritten m z v) fields =
      { s with config := { s.config with zoneMinimums := s.config.zoneMinimums.set (zoneIndex m z) v },
               stations := (s.acted (s.zoneWritten m z v) fields).stations, holds := (s.zoneWritten m z v).holds,
               port := (s.reported fields).port } := by
  rw [acted_frame]
  generalize (s.acted (s.zoneWritten m z v) fields).stations = stations
  rw [zoneWritten_frame]

theorem config_zoneWritten (s : State) (m : Mode) (z : Nat) (v : ZoneMinimum) :
    (s.zoneWritten m z v).config = { s.config with zoneMinimums := s.config.zoneMinimums.set (zoneIndex m z) v } := by
  rw [zoneWritten_frame]

theorem live_zoneWritten (s : State) (m : Mode) (z : Nat) (v : ZoneMinimum) (n : Nat) :
    (s.zoneWritten m z v).live n = s.live n := by
  rw [zoneWritten_frame]
  rfl

/-- Settles O27: the entry written is the one of its mode and zone alone. -/
theorem zoneAndHoldoverWrites : Obligations.ZoneAndHoldoverWrites := by
  unfold Obligations.ZoneAndHoldoverWrites
  refine ⟨fun s mode zone value on => ⟨fun bad => ?badZone, fun m v code low zoneLow known => ?zone⟩,
    fun s level on => ⟨fun high => ?badLevel, fun low => ?level⟩⟩
  case badZone =>
    rw [exec_setZoneMinimum on]
    rcases bad with mode_high | zone_high | value_high
    · by_cases known : mode.toNat ≤ 5
      · obtain ⟨m, code⟩ := exists_mode_of_le known
        rw [← code] at mode_high ⊢
        have panic : m = .panic := (Mode.code_eq_five m).mp (by omega)
        rw [modeOf_code]
        cases zoneMinimumOf value.toNat with
        | none => rfl
        | some v => exact congrArg _ (if_pos (Or.inl panic))
      · rw [modeOf_beyond (by omega)]
    · cases modeOf mode.toNat with
      | none => rfl
      | some m =>
        cases zoneMinimumOf value.toNat with
        | none => rfl
        | some v => exact congrArg _ (if_pos (Or.inr zone_high))
    · rw [zoneMinimumOf_beyond value_high]
      cases modeOf mode.toNat <;> rfl
  case zone =>
    rw [exec_setZoneMinimum on, ← code, modeOf_code, known]
    have notPanic : m ≠ .panic := fun h => absurd ((Mode.code_eq_five m).mpr h) (by omega)
    have fits : ¬ (m = .panic ∨ 15 < zone.toNat) := by
      rintro (panic | high)
      · exact notPanic panic
      · omega
    refine ⟨_, congrArg _ (if_neg fits), fun n z other => ?_, holds_zoneWritten s m zone.toNat v,
      sameButPending_acted _ (live_zoneWritten s m zone.toNat v), rfl, ?_⟩
    · have written : (s.acted (s.zoneWritten m zone.toNat v)
          [(3, m.code), (4, zone.toNat), (3, (s.config.zoneMinimums.get (.atLeast 0) (zoneIndex m zone.toNat)).code)]).config =
          { s.config with zoneMinimums := s.config.zoneMinimums.set (zoneIndex m zone.toNat) v } := config_zoneWritten ..
      rw [written]
      simp only [Table.get_set, zoneIndex_eq_iff notPanic other]
      refine if_congr ⟨fun h => h.1, fun h => ⟨h, ?_⟩⟩ rfl rfl
      obtain ⟨rfl, rfl⟩ := h
      have := Mode.code_le_four notPanic
      unfold zoneIndex
      omega
    · have frame := acted_zoneWritten_frame s m zone.toNat v
        [(3, m.code), (4, zone.toNat), (3, (s.config.zoneMinimums.get (.atLeast 0) (zoneIndex m zone.toNat)).code)]
      rw [frame]
  case badLevel => rw [exec_setHoldoverLevel on, if_pos high]
  case level =>
    rw [exec_setHoldoverLevel on, if_neg (by omega)]
    exact ⟨_, rfl, sameButPending_acted _ fun _ => rfl, rfl⟩

/-! ## Panic (R141 to R143, R146) -/

theorem enterPanic_of_panic {s : State} (panic : s.mode = .panic) (cause : ModeCause) : s.enterPanic cause = s := if_pos panic

theorem enterPanic_of_calm {s : State} (calm : s.mode ≠ .panic) (cause : ModeCause) :
    s.enterPanic cause = s.changeMode .panic cause := if_neg calm

/-- Settles O28: entering PANIC is a mode change from any other mode, and changes no mode from PANIC. -/
theorem panicEntryAndExit : Obligations.PanicEntryAndExit := by
  unfold Obligations.PanicEntryAndExit
  refine ⟨fun s on calm => ?enters, fun s on panic => ?stays, fun s on kept => ?refused, fun s on panic inactive => ?clears,
    fun s on => ?input, fun s on => exec_panicInputInactive on⟩
  case enters =>
    rw [exec_panic on, enterPanic_of_calm calm]
    exact ⟨_, rfl, modeChanged_acted .., rfl, rfl⟩
  case stays =>
    have code : s.mode.code = 5 := (Mode.code_eq_five _).mpr panic
    rw [exec_panic on, enterPanic_of_panic panic, code]
    exact ⟨_, rfl, sameButPending_acted _ fun _ => rfl, rfl⟩
  case refused =>
    rw [exec_clearPanic on, if_neg]
    rintro ⟨panic, inactive⟩
    rcases kept with calm | active
    · exact calm panic
    · rw [inactive] at active
      cases active
  case clears =>
    rw [exec_clearPanic on, if_pos ⟨panic, inactive⟩]
    exact ⟨_, rfl, modeChanged_acted .., rfl, rfl⟩
  case input =>
    rw [exec_panicInputActive on]
    refine ⟨_, rfl, ?_⟩
    by_cases panic : s.mode = .panic
    · rw [enterPanic_of_panic (s := { s with panicLatch := true }) panic]
      refine ⟨rfl, panic, fun calm => absurd panic calm, fun _ => ⟨rfl, rfl, sameButPending_of_live s fun _ => rfl⟩, rfl⟩
    · rw [enterPanic_of_calm (s := { s with panicLatch := true }) panic]
      exact ⟨rfl, rfl, fun _ => ⟨rfl, rfl, rfl, sameButPending_of_live s fun _ => rfl⟩, fun h => absurd h panic, rfl⟩

end Sys2Proof.Machine
end

section
/-! The show lock (R147 to R153): renewals, the give, and the lapse. -/
namespace Sys2Proof.Machine

open State

/-! ## Lapses (R153) -/

theorem lapse_of_show {s : State} (shows : s.mode = .show) (cause : ModeCause) :
    s.lapse cause = { s with lock := .free }.changeMode .holdover cause := if_pos shows

theorem lapse_of_other {s : State} (other : s.mode ≠ .show) (cause : ModeCause) :
    s.lapse cause = { s with lock := .free }.latchMode s.mode cause := if_neg other

/-- A lapse whose images are recomputed: the lock is FREE, and the mode follows R153. -/
theorem lapse_recomputed (s : State) (cause : ModeCause) :
    (s.recomputeImages (s.lapse cause)).lock = .free ∧
      (s.mode = .show → s.ModeChanged (s.recomputeImages (s.lapse cause)) .holdover cause) ∧
      (s.mode ≠ .show → (s.lapse cause).mode = s.mode ∧ (s.lapse cause).holds = s.holds ∧
        s.SameButPending (s.recomputeImages (s.lapse cause)) ∧ (s.lapse cause).events = (s.latchMode s.mode cause).events) := by
  refine ⟨?_, fun shows => ?_, fun other => ?_⟩
  · show (s.lapse cause).lock = .free
    rw [lapse_frame]
  · rw [lapse_of_show shows]
    exact ⟨rfl, rfl, rfl, sameButPending_of_live s fun _ => rfl⟩
  · rw [lapse_of_other other]
    exact ⟨rfl, rfl, sameButPending_of_live s fun _ => rfl, rfl⟩

theorem lapseRecomputed_frame (s : State) (cause : ModeCause) :
    s.recomputeImages (s.lapse cause) =
      { s with stations := (s.recomputeImages (s.lapse cause)).stations, holds := (s.recomputeImages (s.lapse cause)).holds,
               mode := (s.recomputeImages (s.lapse cause)).mode, lock := (s.recomputeImages (s.lapse cause)).lock,
               events := (s.recomputeImages (s.lapse cause)).events } := by
  rw [lapse_frame]
  rfl

theorem lapsedEarly_frame (s : State) :
    s.lapsedEarly =
      { s with stations := s.lapsedEarly.stations, holds := s.lapsedEarly.holds, mode := s.lapsedEarly.mode,
               lock := s.lapsedEarly.lock, events := s.lapsedEarly.events, port := s.lapsedEarly.port,
               sense := s.lapsedEarly.sense } := by
  unfold State.lapsedEarly
  rw [lapse_frame]
  rfl

/-! ## Renewals (R149, R150) -/

theorem toggleOf_beyond {b : Byte} (h : 1 < b.toNat) : toggleOf b = none := by
  rw [toggleOf, if_neg (by omega), if_neg (by omega)]

theorem toggleOf_le {b : Byte} (h : b.toNat ≤ 1) : ∃ t, toggleOf b = some t ∧ t.toNat = b.toNat ∧ t = (b.toNat == 1) := by
  by_cases zero : b.toNat = 0
  · exact ⟨false, if_pos zero, by simp [zero], by simp [zero]⟩
  · have one : b.toNat = 1 := by omega
    exact ⟨true, by rw [toggleOf, if_neg zero, if_pos one], by simp [one], by simp [one]⟩

theorem Bool.toNat_injective {a b : Bool} (h : a.toNat = b.toNat) : a = b := by
  cases a <;> cases b <;> simp_all

/-- A held lock given its own toggle again refuses (R149). -/
theorem exec_lockRenew_same {s : State} (on : s.powered = true) {toggle : Byte} {h : LockHeld}
    (held : s.lock = .first h ∨ s.lock = .windowed h) (same : toggle.toNat = h.lastToggle.toNat) :
    exec (.lockRenew toggle) s = .next (s.refusedWith 0x34 .lockState .none reasonSameToggle) := by
  obtain ⟨t, named, number, _⟩ := toggleOf_le (b := toggle) (by have := Bool.toNat_lt h.lastToggle; omega)
  have repeated : t = h.lastToggle := Bool.toNat_injective (number.trans same)
  rw [exec_lockRenew on, named]
  rcases held with first | windowed
  · rw [first]
    exact congrArg _ (if_pos repeated)
  · rw [windowed]
    exact congrArg _ (if_pos repeated)

/-- A held lock given its other toggle: renewed, but for the closed half of WINDOWED (R149, R150). -/
theorem exec_lockRenew_other {s : State} (on : s.powered = true) {toggle : Byte} {h : LockHeld} (low : toggle.toNat ≤ 1)
    (other : toggle.toNat ≠ h.lastToggle.toNat) (held : s.lock = .first h ∨ s.lock = .windowed h) :
    exec (.lockRenew toggle) s = .next (
      if s.lock = .windowed h ∧ s.clock - h.since < 40 * h.period then s.lapsedEarly
      else s.renewed h (toggle.toNat == 1)) := by
  obtain ⟨t, named, number, bit⟩ := toggleOf_le low
  have new : ¬ t = h.lastToggle := by
    rintro rfl
    exact other number.symm
  rw [exec_lockRenew on, named, ← bit]
  rcases held with first | windowed
  · rw [first]
    exact congrArg _ ((if_neg new).trans (if_neg fun closed => nomatch closed.1).symm)
  · rw [windowed]
    refine congrArg _ ((if_neg new).trans (if_congr ?_ rfl rfl))
    exact ⟨fun closed => ⟨rfl, closed⟩, fun closed => closed.2⟩

/-- Settles O30: each clause is one branch of LOCK_RENEW. -/
theorem lockRenewal : Obligations.LockRenewal := by
  unfold Obligations.LockRenewal
  intro s toggle on
  refine ⟨fun high => ?unnamed, fun low free => ?notHeld, fun h held => ⟨fun same => exec_lockRenew_same on held same,
    fun low other => ⟨fun opened => ?renewed, fun windowed closed => ?early⟩⟩⟩
  case unnamed => rw [exec_lockRenew on, toggleOf_beyond high]
  case notHeld =>
    obtain ⟨t, named, _⟩ := toggleOf_le low
    rw [exec_lockRenew on, named, free]
    rfl
  case renewed =>
    have open_ : ¬ (s.lock = .windowed h ∧ s.clock - h.since < 40 * h.period) := by
      rintro ⟨windowed, closed⟩
      rcases opened with first | late
      · rw [first] at windowed
        cases windowed
      · omega
    have bit : yesNo (toggle.toNat == 1) = (1, toggle.toNat) := by
      obtain ⟨t, _, number, rfl⟩ := toggleOf_le low
      rw [yesNo, number]
    rw [exec_lockRenew_other on low other held, if_neg open_, State.renewed, bit]
  case early =>
    rw [exec_lockRenew_other on low other held, if_pos ⟨windowed, closed⟩]
    obtain ⟨lock, shows, calm⟩ := lapse_recomputed s .early
    exact ⟨_, rfl, lock, rfl, rfl, shows, calm, lapsedEarly_frame s⟩

/-! ## The give and the expiry (R147, R151, R152) -/

/-- A lock renewed at the moment has its whole period left (R147). -/
theorem lockRunOut_renewed {s : State} {h : LockHeld} (t : Bool) (running : 0 < h.period) : (s.renewed h t).lockRunOut = false :=
  decide_eq_false (by
    show ¬ s.clock + 80 * h.period ≤ s.clock
    omega)

/-- What an accepted LOCK_RENEW on a held lock leaves. -/
theorem renewed_of_ok {s t : State} {h : LockHeld} {toggle : Byte} (on : s.powered = true)
    (held : s.lock = .first h ∨ s.lock = .windowed h) (runs : exec (.lockRenew toggle) s = .next t)
    (ok : t.port.result.code = .ok) : t = s.renewed h (toggle.toNat == 1) := by
  by_cases high : 1 < toggle.toNat
  · rw [exec_lockRenew on, toggleOf_beyond high] at runs
    cases runs
    cases ok
  by_cases same : toggle.toNat = h.lastToggle.toNat
  · rw [exec_lockRenew_same on held same] at runs
    cases runs
    cases ok
  · rw [exec_lockRenew_other on (by omega) same held] at runs
    split at runs
    · cases runs
      cases ok
    · cases runs
      rfl

/-- Settles O31: a give frees the lock outside SHOW; an expiry is taken once the period has run out. -/
theorem lockGiveAndLapse : Obligations.LockGiveAndLapse := by
  unfold Obligations.LockGiveAndLapse
  refine ⟨fun s on shows => ?refused, fun s on other => ?given, fun s h on held => ⟨fun ended => ?lapses, fun running => ?early⟩,
    fun s t h toggle on held running runs ok => ?renewed, fun s on free => ?free⟩
  case refused => rw [exec_lockGive on, if_pos shows]
  case given => rw [exec_lockGive on, if_neg other]
  case lapses =>
    rw [exec_lockTimerExpiry on, if_pos ((lockRunOut_iff s).mpr ⟨h, held, ended⟩)]
    obtain ⟨lock, shows, calm⟩ := lapse_recomputed s .late
    exact ⟨_, rfl, lock, shows, calm, lapseRecomputed_frame s .late⟩
  case early =>
    rw [exec_lockTimerExpiry on, if_neg]
    intro ended
    obtain ⟨k, heldBy, late⟩ := (lockRunOut_iff s).mp ended
    have same : k = h := by
      rcases held with held | held <;> rw [held] at heldBy <;> rcases heldBy with heldBy | heldBy <;> cases heldBy <;> rfl
    rw [same] at late
    exact absurd late (Nat.not_le.mpr running)
  case renewed =>
    rw [renewed_of_ok on held runs ok]
    have rests := lockRunOut_renewed (s := s) (toggle.toNat == 1) running
    rw [exec_lockTimerExpiry (s := s.renewed h _) on, if_neg (by simp [rests])]
  case free =>
    have rests : s.lockRunOut = false := by rw [State.lockRunOut, free]
    rw [exec_lockTimerExpiry on, if_neg (by simp [rests])]

end Sys2Proof.Machine
end

section
/-! Edits of bindings, circuits, groups and presets: each replaces one record, and an edit of R174's list does no more than
`Edited` says. -/
namespace Sys2Proof.Machine

open State

/-- The test of a written record, in the words of the statements. -/
theorem ite_record {α : Type} {i n : Nat} (fits : i < n) (j : Nat) (a b : α) :
    (if i = j ∧ j < n then a else b) = if j = i then a else b := by
  refine if_congr ⟨fun h => h.1.symm, ?_⟩ rfl rfl
  rintro rfl
  exact ⟨rfl, fits⟩

/-! ## Bindings (R11 to R14) -/

/-- What an accepted WRITE_BINDING or CLEAR_BINDING leaves. -/
theorem edited_setBinding (s : State) {i : Nat} (b : Binding) (fields : List (Nat × Nat)) (fits : i ≤ 1023) :
    s.Edited (s.edited (s.setBinding i b) fields) fields ∧
      (s.edited (s.setBinding i b) fields).config =
        { s.config with bindings := (s.edited (s.setBinding i b) fields).config.bindings } ∧
      ∀ j, (s.edited (s.setBinding i b) fields).binding j = if j = i then b else s.binding j :=
  ⟨edited_edited fields rfl, rfl, fun j =>
    (s.binding_setBinding i j b).trans (ite_record (Nat.lt_succ_of_le fits) j _ _)⟩

/-- Settles O15: the checks of WRITE_BINDING and CLEAR_BINDING in their order, then the one record. -/
theorem bindingWritesReplaceRecord : Obligations.BindingWritesReplaceRecord := by
  unfold Obligations.BindingWritesReplaceRecord
  refine ⟨fun s index record on => ?write, fun s index on => ?clear⟩
  case write =>
    rw [exec_writeBinding on]
    refine ⟨fun active => by simp only [if_pos active], fun idle beyond => ?beyond, fun idle fits present unread => ?unread,
      fun b idle fits reads => ?replaced⟩
    all_goals have still : ¬ s.sweeper.active = true := by simp [idle]
    case beyond => simp only [if_neg still, if_pos beyond]
    case unread => simp only [if_neg still, if_neg (Nat.not_lt.mpr fits), present, unread, Bool.true_eq_false, if_false]
    case replaced =>
      have written : (if recordPresent record = false then
            s.edited (s.setBinding index.toNat .empty) [(10, index.toNat), yesNo (s.binding index.toNat).present]
          else match readRecord record with
            | some b => s.edited (s.setBinding index.toNat b) [(10, index.toNat), yesNo (s.binding index.toNat).present]
            | none => s.refusedWith 0x10 .badParameter (.binding index.toNat) []) =
          s.edited (s.setBinding index.toNat b) [(10, index.toNat), yesNo (s.binding index.toNat).present] := by
        rcases reads with ⟨absent, rfl⟩ | ⟨present, read⟩
        · rw [if_pos absent]
        · rw [if_neg (by simp [present]), read]
      simp only [if_neg still, if_neg (Nat.not_lt.mpr fits)]
      exact ⟨_, congrArg _ written, edited_setBinding s b _ fits⟩
  case clear =>
    rw [exec_clearBinding on]
    refine ⟨fun active => by simp only [if_pos active], fun idle beyond => ?beyond, fun idle fits => ?replaced⟩
    all_goals have still : ¬ s.sweeper.active = true := by simp [idle]
    case beyond => simp only [if_neg still, if_pos beyond]
    case replaced =>
      simp only [if_neg still, if_neg (Nat.not_lt.mpr fits)]
      exact ⟨_, rfl, edited_setBinding s _ _ fits⟩

/-! ## Circuits (R98, R100, R101, R103 to R105) -/

theorem curveOf_beyond {n : Nat} (h : 2 < n) : curveOf n = none := by
  obtain ⟨k, rfl⟩ : ∃ k, n = k + 3 := ⟨n - 3, by omega⟩
  rfl

theorem mergeRuleOf_beyond {n : Nat} (h : 1 < n) : mergeRuleOf n = none := by
  obtain ⟨k, rfl⟩ : ∃ k, n = k + 2 := ⟨n - 2, by omega⟩
  rfl

theorem readYes_eq_true {b : Byte} : readYes b = true ↔ b ≠ 0 := by simp [readYes]

theorem edited_setAttrs (s : State) {c : Nat} (a : CircuitAttrs) (fields : List (Nat × Nat)) (fits : c ≤ 383) :
    s.Edited (s.edited (s.setAttrs c a) fields) fields ∧
      (s.edited (s.setAttrs c a) fields).config =
        { s.config with circuits := (s.edited (s.setAttrs c a) fields).config.circuits } ∧
      ∀ d, (s.edited (s.setAttrs c a) fields).attrs d = if d = c then a else s.attrs d :=
  ⟨edited_edited fields rfl, rfl, fun d => (s.attrs_setAttrs c d a).trans (ite_record (Nat.lt_succ_of_le fits) d _ _)⟩

/-- Settles O17: the checks of WRITE_CIRCUIT in their order, then the six attributes. -/
theorem circuitWriteReplacesAttributes : Obligations.CircuitWriteReplacesAttributes := by
  unfold Obligations.CircuitWriteReplacesAttributes
  intro s circuit egress floor house participant curve mergeRule on
  rw [exec_writeCircuit on]
  refine ⟨fun active => by simp only [if_pos active], fun idle bad => ?bad, fun k m idle fits low curve_ok rule_ok =>
    ⟨fun egress_yes retired => ?egressKept, fun open_ => ?written⟩⟩
  all_goals have still : ¬ s.sweeper.active = true := by simp [idle]
  case bad =>
    by_cases range : 383 < circuit.toNat ∨ 1000 < floor.toNat
    · simp only [if_neg still, if_pos range]
    · have unread : curveOf curve.toNat = none ∨ mergeRuleOf mergeRule.toNat = none := by
        rcases bad with high | high | high | high
        · exact absurd (Or.inl high) range
        · exact absurd (Or.inr high) range
        · exact Or.inl (curveOf_beyond high)
        · exact Or.inr (mergeRuleOf_beyond high)
      simp only [if_neg still, if_neg range]
      rcases unread with none | none
      · rw [none]
      · rw [none]
        cases curveOf curve.toNat <;> rfl
  all_goals have range : ¬ (383 < circuit.toNat ∨ 1000 < floor.toNat) := by omega
  case egressKept =>
    simp only [if_neg still, if_neg range, curve_ok, rule_ok, if_pos (And.intro (readYes_eq_true.mpr egress_yes) retired)]
  case written =>
    have allowed : ¬ (readYes egress = true ∧ (s.attrs circuit.toNat).retired = true) := by
      rintro ⟨egress_yes, retired⟩
      rcases open_ with no | serving
      · exact readYes_eq_true.mp egress_yes no
      · rw [serving] at retired
        cases retired
    simp only [if_neg still, if_neg range, curve_ok, rule_ok, if_neg allowed]
    obtain ⟨edited, config, attrs⟩ := edited_setAttrs s
      ((s.attrs circuit.toNat).rewritten (readYes egress) (readYes house) (readYes participant) floor.toNat k m)
      [(9, circuit.toNat), yesNo (readYes egress || readYes participant)] fits
    refine ⟨_, rfl, edited, config, fun c => (attrs c).trans ?_⟩
    split
    · rename_i same
      rw [same]
      rfl
    · rfl

theorem curveCode_zero (k : Curve) : curveCode k 0 = 0 := by cases k <;> rfl

/-- A retired circuit gives level and rack code 0 (R113). -/
theorem outputLevel_of_retired {s : State} {c : Nat} (retired : (s.attrs c).retired = true) : s.outputLevel c = 0 := by
  unfold State.outputLevel overlaid
  exact if_pos retired

theorem rackCode_of_retired {s : State} {c : Nat} (retired : (s.attrs c).retired = true) : s.rackCode c = 0 := by
  rw [State.rackCode, outputLevel_of_retired retired, curveCode_zero]

theorem contributions_removed (pool : List Hold) (c : Nat) : contributions (pool.filter fun h => h.circuit != c) c = [] := by
  rw [contributions, List.filter_filter, List.filter_eq_nil_iff]
  intro h _
  simp

theorem attrs_retire (s : State) {c : Nat} (fits : c ≤ 383) (d : Nat) :
    (s.retire c).attrs d = if d = c then { s.attrs d with retired := true } else s.attrs d := by
  refine ((s.attrs_setAttrs c d _).trans (ite_record (Nat.lt_succ_of_le fits) d _ _)).trans ?_
  split
  · rename_i same
    rw [same]
  · rfl

/-- Settles O18: the checks of RETIRE_CIRCUIT in their order, then the retirement. -/
theorem retirementRemovesHolds : Obligations.RetirementRemovesHolds := by
  unfold Obligations.RetirementRemovesHolds
  intro s circuit on
  rw [exec_retireCircuit on]
  refine ⟨fun active => by simp only [if_pos active], fun idle beyond => ?beyond, fun idle fits egress => ?egressKept,
    fun idle fits inner retired => ?already, fun idle fits inner serving => ?retired⟩
  all_goals have still : ¬ s.sweeper.active = true := by simp [idle]
  case beyond => simp only [if_neg still, if_pos beyond]
  all_goals have range : ¬ 383 < circuit.toNat := by omega
  case egressKept => simp only [if_neg still, if_neg range, if_pos egress]
  case already => simp only [if_neg still, if_neg range, inner, retired, Bool.false_eq_true, if_false, if_true]
  case retired =>
    simp only [if_neg still, if_neg range, inner, serving, Bool.false_eq_true, if_false]
    have attrs := attrs_retire s fits
    have out : ((s.retire circuit.toNat).attrs circuit.toNat).retired = true := by rw [attrs, if_pos rfl]
    refine ⟨_, rfl, attrs, rfl, contributions_removed s.holds circuit.toNat, rfl, rfl, sameButPending_edited _ fun _ => rfl, rfl,
      outputLevel_of_retired out, rackCode_of_retired out, rfl⟩

/-- Settles O19: RESTORE_CIRCUIT writes the two records of its circuit alone. -/
theorem restoreClearsFaults : Obligations.RestoreClearsFaults := by
  unfold Obligations.RestoreClearsFaults
  intro s circuit on
  rw [exec_restoreCircuit on]
  refine ⟨fun active => by simp only [if_pos active], fun idle beyond => ?beyond, fun idle fits => ?restored⟩
  all_goals have still : ¬ s.sweeper.active = true := by simp [idle]
  case beyond => simp only [if_neg still, if_pos beyond]
  case restored =>
    simp only [if_neg still, if_neg (Nat.not_lt.mpr fits)]
    have record := Nat.lt_succ_of_le fits
    refine ⟨_, rfl, fun c => ?_, fun c => ?_, rfl, rfl, sameButPending_edited _ fun _ => rfl, rfl⟩
    · refine ((s.attrs_setAttrs circuit.toNat c _).trans (ite_record record c _ _)).trans ?_
      split
      · rename_i same
        rw [same]
      · rfl
    · refine ((s.circuit_setCircuit circuit.toNat c _).trans (ite_record record c _ _)).trans ?_
      split
      · rename_i same
        rw [same]
      · rfl

/-! ## Groups (R118 to R120) -/

theorem edited_setGroup (s : State) {g : Nat} (l : List Nat) (fields : List (Nat × Nat)) (fits : g ≤ 63) :
    s.Edited (s.edited (s.setGroup g l) fields) fields ∧
      (s.edited (s.setGroup g l) fields).config =
        { s.config with groups := (s.edited (s.setGroup g l) fields).config.groups } ∧
      ∀ k, (s.edited (s.setGroup g l) fields).group k = if k = g then l else s.group k :=
  ⟨edited_edited fields rfl, rfl, fun k => (s.group_setGroup g k l).trans (ite_record (Nat.lt_succ_of_le fits) k _ _)⟩

end Sys2Proof.Machine
end

section
/-! Edits of groups and presets: the position of an item splits its list, and the edit replaces, appends or deletes there. -/
namespace Sys2Proof.Machine

open State

/-! ## Groups (R118 to R120) -/

theorem eraseIdx_append_cons {α : Type} (before after : List α) (x : α) :
    (before ++ x :: after).eraseIdx before.length = before ++ after := by
  rw [List.eraseIdx_append_of_length_le le_rfl, Nat.sub_self]
  rfl

theorem length_append_cons_sub_one {α : Type} (before after : List α) (x : α) :
    (before ++ x :: after).length - 1 = before.length + after.length := by
  simp

theorem positionOf_group_none {l : List Nat} {c : Nat} (absent : c ∉ l) : positionOf (fun x => x == c) l = none :=
  positionOf_eq_none.mpr fun _ hx => beq_eq_false_iff_ne.mpr fun same => absent (same ▸ hx)

theorem positionOf_group_some {before after : List Nat} {c : Nat} (first : c ∉ before) :
    positionOf (fun x => x == c) (before ++ c :: after) = some before.length :=
  positionOf_append_cons (fun _ hy => beq_eq_false_iff_ne.mpr fun same => first (same ▸ hy)) (beq_self_eq_true c)

/-- Settles O22: the checks of GROUP_ADD and GROUP_REMOVE in their order, then the one list. -/
theorem groupEdits : Obligations.GroupEdits := by
  unfold Obligations.GroupEdits
  refine ⟨fun s group circuit on => ?add, fun s group circuit on => ?remove⟩
  case add =>
    rw [exec_groupAdd on]
    refine ⟨fun active => by simp only [if_pos active], fun idle bad => ?bad, fun idle groupFits circuitFits =>
      ⟨fun present => ?duplicate, fun absent full => ?full, fun absent room => ?added⟩⟩
    all_goals have still : ¬ s.sweeper.active = true := by simp [idle]
    case bad => simp only [if_neg still, if_pos bad]
    all_goals have range : ¬ (63 < group.toNat ∨ 383 < circuit.toNat) := by omega
    case duplicate =>
      have listed : (s.group group.toNat).contains circuit.toNat = true := by simpa using present
      simp only [if_neg still, if_neg range, if_pos listed]
    all_goals have unlisted : ¬ (s.group group.toNat).contains circuit.toNat = true := by simpa using absent
    case full => simp only [if_neg still, if_neg range, if_neg unlisted, if_pos full]
    case added =>
      have space : ¬ 32 ≤ (s.group group.toNat).length := Nat.not_le.mpr room
      simp only [if_neg still, if_neg range, if_neg unlisted, if_neg space]
      obtain ⟨edited, config, groups⟩ := edited_setGroup s (s.group group.toNat ++ [circuit.toNat])
        [(6, group.toNat), (5, (s.group group.toNat).length), (6, (s.group group.toNat).length + 1)] groupFits
      refine ⟨_, rfl, edited, config, fun k => (groups k).trans ?_⟩
      split
      · rename_i same
        rw [same]
      · rfl
  case remove =>
    rw [exec_groupRemove on]
    refine ⟨fun active => by simp only [if_pos active], fun idle bad => ?bad, fun idle groupFits circuitFits absent => ?absent,
      fun before after idle groupFits circuitFits splits first => ?removed⟩
    all_goals have still : ¬ s.sweeper.active = true := by simp [idle]
    case bad => simp only [if_neg still, if_pos bad]
    all_goals have range : ¬ (63 < group.toNat ∨ 383 < circuit.toNat) := by omega
    case absent => simp only [if_neg still, if_neg range, positionOf_group_none absent]
    case removed =>
      simp only [if_neg still, if_neg range, splits, positionOf_group_some first, eraseIdx_append_cons,
        length_append_cons_sub_one]
      exact ⟨_, rfl, edited_setGroup s _ _ groupFits⟩

/-! ## Presets (R122 to R125) -/

theorem edited_setPreset (s : State) {p : Nat} (v : Preset) (fields : List (Nat × Nat)) (fits : p ≤ 47) :
    s.Edited (s.edited (s.setPreset p v) fields) fields ∧
      (s.edited (s.setPreset p v) fields).config =
        { s.config with presets := (s.edited (s.setPreset p v) fields).config.presets } ∧
      ∀ q, (s.edited (s.setPreset p v) fields).preset q = if q = p then v else s.preset q :=
  ⟨edited_edited fields rfl, rfl, fun q => (s.preset_setPreset p q v).trans (ite_record (Nat.lt_succ_of_le fits) q _ _)⟩

theorem positionOf_entry_none {l : List (Nat × Nat)} {c : Nat} (absent : ∀ x ∈ l, x.1 ≠ c) :
    positionOf (fun x => x.1 == c) l = none :=
  positionOf_eq_none.mpr fun x hx => beq_eq_false_iff_ne.mpr (absent x hx)

theorem positionOf_entry_some {before after : List (Nat × Nat)} {c level : Nat} (first : ∀ x ∈ before, x.1 ≠ c) :
    positionOf (fun x => x.1 == c) (before ++ (c, level) :: after) = some before.length :=
  positionOf_append_cons (fun y hy => beq_eq_false_iff_ne.mpr (first y hy)) (beq_self_eq_true c)

/-- One record written by a function of itself, read anywhere. -/
theorem ite_eq_apply {α : Type} {p q : Nat} (f : α → α) (record : Nat → α) (other : α) :
    (if q = p then f (record p) else other) = if q = p then f (record q) else other := by
  split
  · rename_i same
    rw [same]
  · rfl

theorem set_append_cons {α : Type} (before after : List α) (x y : α) :
    (before ++ x :: after).set before.length y = before ++ y :: after := by simp

/-- Settles O23: the checks of the three commands in their order, then the one preset. -/
theorem presetEdits : Obligations.PresetEdits := by
  unfold Obligations.PresetEdits
  refine ⟨fun s preset circuit level on => ?entry, fun s preset circuit on => ?remove, fun s preset fade zone on => ?attr⟩
  case entry =>
    rw [exec_presetSetEntry on]
    refine ⟨fun active => by simp only [if_pos active], fun idle bad => ?bad, fun idle presetFits circuitFits levelFits =>
      ⟨fun before old after splits first => ?replaced, fun absent full => ?full, fun absent room => ?added⟩⟩
    all_goals have still : ¬ s.sweeper.active = true := by simp [idle]
    case bad => simp only [if_neg still, if_pos bad]
    all_goals have range : ¬ (47 < preset.toNat ∨ 383 < circuit.toNat ∨ 1000 < level.toNat) := by omega
    case replaced =>
      simp only [if_neg still, if_neg range, splits, positionOf_entry_some first, set_append_cons]
      obtain ⟨edited, config, presets⟩ := edited_setPreset s
        { s.preset preset.toNat with entries := before ++ (circuit.toNat, level.toNat) :: after }
        [(6, preset.toNat), (6, before.length), (7, (before ++ (circuit.toNat, old) :: after).length), newEntryMark false]
        presetFits
      exact ⟨_, rfl, edited, config, fun p => (presets p).trans
        (ite_eq_apply (fun v : Preset => { v with entries := before ++ (circuit.toNat, level.toNat) :: after }) s.preset _)⟩
    case full =>
      have none : 64 ≤ (s.preset preset.toNat).entries.length := full
      simp only [if_neg still, if_neg range, positionOf_entry_none absent, if_pos none]
    case added =>
      have space : ¬ 64 ≤ (s.preset preset.toNat).entries.length := Nat.not_le.mpr room
      simp only [if_neg still, if_neg range, positionOf_entry_none absent, if_neg space]
      obtain ⟨edited, config, presets⟩ := edited_setPreset s
        { s.preset preset.toNat with entries := (s.preset preset.toNat).entries ++ [(circuit.toNat, level.toNat)] }
        [(6, preset.toNat), (6, (s.preset preset.toNat).entries.length), (7, (s.preset preset.toNat).entries.length + 1),
          newEntryMark true] presetFits
      exact ⟨_, rfl, edited, config, fun p => (presets p).trans
        (ite_eq_apply (fun v : Preset => { v with entries := v.entries ++ [(circuit.toNat, level.toNat)] }) s.preset _)⟩
  case remove =>
    rw [exec_presetRemoveEntry on]
    refine ⟨fun active => by simp only [if_pos active], fun idle bad => ?bad, fun idle presetFits circuitFits absent => ?absent,
      fun before old after idle presetFits circuitFits splits first => ?removed⟩
    all_goals have still : ¬ s.sweeper.active = true := by simp [idle]
    case bad => simp only [if_neg still, if_pos bad]
    all_goals have range : ¬ (47 < preset.toNat ∨ 383 < circuit.toNat) := by omega
    case absent => simp only [if_neg still, if_neg range, positionOf_entry_none absent]
    case removed =>
      simp only [if_neg still, if_neg range, splits, positionOf_entry_some first, eraseIdx_append_cons,
        length_append_cons_sub_one]
      obtain ⟨edited, config, presets⟩ := edited_setPreset s { s.preset preset.toNat with entries := before ++ after }
        [(6, preset.toNat), (6, before.length), (7, before.length + after.length)] presetFits
      exact ⟨_, rfl, edited, config, fun p => (presets p).trans
        (ite_eq_apply (fun v : Preset => { v with entries := before ++ after }) s.preset _)⟩
  case attr =>
    rw [exec_presetSetAttr on]
    refine ⟨fun active => by simp only [if_pos active], fun idle bad => ?bad, fun idle presetFits fadeFits zoneFits => ?written⟩
    all_goals have still : ¬ s.sweeper.active = true := by simp [idle]
    case bad => simp only [if_neg still, if_pos bad]
    case written =>
      have range : ¬ (47 < preset.toNat ∨ 600 < fade.toNat ∨ 15 < zone.toNat) := by omega
      simp only [if_neg still, if_neg range]
      obtain ⟨edited, config, presets⟩ := edited_setPreset s
        { s.preset preset.toNat with fade := fade.toNat, zone := zone.toNat }
        [(6, preset.toNat), (10, (s.preset preset.toNat).fade), (4, (s.preset preset.toNat).zone)] presetFits
      exact ⟨_, rfl, edited, config, fun p => (presets p).trans
        (ite_eq_apply (fun v : Preset => { v with fade := fade.toNat, zone := zone.toNat }) s.preset _)⟩

end Sys2Proof.Machine
end

section
/-! Station records and loop restarts (R20, R21, R39). -/
namespace Sys2Proof.Machine

open State

/-! ## What a recomputation leaves alone -/

theorem recomputeOne_of_unenrolled {before after : State} {n : Nat} (off : (after.slot n).enrolled = false) (v : StationLive) :
    recomputeOne before after n v = v := by
  simp [recomputeOne, off]

/-- A forced pending stands (R35). -/
theorem recomputeOne_of_forced {before after : State} {n : Nat} {v : StationLive} (pending : v.imagePending = true)
    (forced : v.forced = true) : recomputeOne before after n v = v := by
  have kept : { v with imagePending := true } = v := by rw [← pending]
  unfold recomputeOne StationLive.recomputed
  rw [if_pos (Or.inr forced), kept, ite_self, ite_self]

/-! ## Station records (R20, R21) -/

theorem stationUsable_lt {n : Nat} (usable : stationUsable n = true) : n < 128 := by
  have fits : n ≤ 127 ∧ n ≠ 0 ∧ n ≠ 64 := by simpa [stationUsable] using usable
  omega

/-- The configuration half that WRITE_STATION writes (R20). -/
def StationConfig.given (enrolled : Byte) (base : Half) (count authority : Byte) : StationConfig :=
  { enrolled := readYes enrolled, base := base.toNat, count := count.toNat, authority := authority.toNat }

/-- The action of an accepted WRITE_STATION (R20, R21). -/
def State.stationWritten (s : State) (n : Nat) (c : StationConfig) : State :=
  (s.setSlot n c).adjustEnrollment n (s.slot n).enrolled c.enrolled

/-- An accepted WRITE_STATION. -/
theorem exec_writeStation_ok {s : State} (on : s.powered = true) {station enrolled : Byte} {base : Half} {count authority : Byte}
    (usable : stationUsable station.toNat = true) (baseFits : base.toNat ≤ 1023) (counts : 1 ≤ count.toNat)
    (countFits : count.toNat ≤ 16) (authorityFits : authority.toNat ≤ 3) :
    exec (.writeStation station enrolled base count authority) s = .next
      (s.acted (s.stationWritten station.toNat (.given enrolled base count authority))
        [(7, station.toNat), yesNo (s.slot station.toNat).enrolled]) := by
  rw [exec_writeStation on]
  exact congrArg _ (if_neg (by simp only [usable]; simp; omega))

section
variable (s : State) {n : Nat} (c : StationConfig)

theorem live_stationWritten (m : Nat) :
    (s.stationWritten n c).live m =
      if n = m ∧ m < 128 then (s.live n).adjusted (s.slot n).enrolled c.enrolled else s.live m :=
  live_adjustEnrollment ..

theorem live_stationWritten_other {m : Nat} (other : m ≠ n) : (s.stationWritten n c).live m = s.live m := by
  rw [live_stationWritten, if_neg fun h => other h.1.symm]

theorem live_stationWritten_same (fits : n < 128) :
    (s.stationWritten n c).live n = (s.live n).adjusted (s.slot n).enrolled c.enrolled := by
  rw [live_stationWritten, if_pos ⟨rfl, fits⟩]

theorem slot_stationWritten (fits : n < 128) (m : Nat) : (s.stationWritten n c).slot m = if m = n then c else s.slot m := by
  rw [State.stationWritten, slot_adjustEnrollment, slot_setSlot, ite_record fits]

/-- A write that keeps enrolled writes the slot alone (R20). -/
theorem stationWritten_of_same (same : (s.slot n).enrolled = c.enrolled) : s.stationWritten n c = s.setSlot n c := by
  rw [State.stationWritten, same, adjustEnrollment]
  cases c.enrolled <;> rfl

theorem holds_stationWritten :
    (s.stationWritten n c).holds =
      if (s.slot n).enrolled = true ∧ c.enrolled = false then releaseWhere (Hold.isMomentaryOf n) s.holds else s.holds :=
  holds_adjustEnrollment ..

theorem events_stationWritten :
    (s.stationWritten n c).events =
      if (s.slot n).enrolled = false ∧ c.enrolled = true ∧ (s.live n).presence = .heard then (s.latchStation n).events
      else s.events := events_adjustEnrollment ..

theorem stationWritten_frame :
    s.stationWritten n c =
      { s with config := { s.config with stations := (s.stationWritten n c).config.stations },
               stations := (s.stationWritten n c).stations, holds := (s.stationWritten n c).holds,
               events := (s.stationWritten n c).events } := by
  rw [State.stationWritten, adjustEnrollment_frame]
  rfl

theorem acted_stationWritten_frame (fields : List (Nat × Nat)) :
    s.acted (s.stationWritten n c) fields =
      { s with config := { s.config with stations := (s.acted (s.stationWritten n c) fields).config.stations },
               stations := (s.acted (s.stationWritten n c) fields).stations,
               holds := (s.acted (s.stationWritten n c) fields).holds,
               events := (s.acted (s.stationWritten n c) fields).events,
               port := (s.acted (s.stationWritten n c) fields).port } := by
  rw [stationWritten_frame]
  rfl

end

/-- Settles O8: the write replaces one slot; with enrolled unchanged it does nothing else. -/
theorem stationWriteReplacesSlot : Obligations.StationWriteReplacesSlot := by
  unfold Obligations.StationWriteReplacesSlot
  intro s station enrolled base count authority on
  refine ⟨fun ⟨usable, baseFits, counts, countFits, authorityFits⟩ => ?written, fun bad => ?refused⟩
  case refused =>
    rw [exec_writeStation on]
    refine congrArg _ (if_pos ?_)
    by_contra fine
    simp only [not_or, Bool.not_eq_true', Bool.not_eq_false] at fine
    exact bad ⟨fine.1, by omega⟩
  case written =>
    have fits := stationUsable_lt usable
    rw [exec_writeStation_ok on usable baseFits counts countFits authorityFits]
    have slot := slot_stationWritten s (.given enrolled base count authority) fits
    refine ⟨_, rfl, (slot _).trans (if_pos rfl), fun m other => (slot m).trans (if_neg other), rfl,
      acted_stationWritten_frame .., fun same => ?_⟩
    rw [stationWritten_of_same s (.given enrolled base count authority) same]
    exact ⟨sameButPending_acted _ fun _ => rfl, rfl, rfl⟩

/-- Settles O9: what R21 says of the live half, and of every other station. -/
theorem enrollmentChange : Obligations.EnrollmentChange := by
  unfold Obligations.EnrollmentChange
  intro s t station enrolled base count authority on usable baseFits counts countFits authorityFits runs
  have fits := stationUsable_lt usable
  rw [exec_writeStation_ok on usable baseFits counts countFits authorityFits] at runs
  cases runs
  generalize given : StationConfig.given enrolled base count authority = c
  have now : c.enrolled = readYes enrolled := by rw [← given]; rfl
  generalize [(7, station.toNat), yesNo (s.slot station.toNat).enrolled] = fields
  generalize station.toNat = n at *
  have live := live_stationWritten_same s c fits
  refine ⟨fun m other => live_acted_of_live fields (live_stationWritten_other s c other), fun was yes => ?enrolls,
    fun was no => ?leaves⟩
  case enrolls =>
    rw [was, now, readYes_eq_true.mpr yes, StationLive.adjusted, if_pos ⟨rfl, rfl⟩, StationLive.enrolling] at live
    have holds := holds_stationWritten s (n := n) c
    have events := events_stationWritten s (n := n) c
    rw [if_neg (by simp [was])] at holds
    refine ⟨holds, ?_⟩
    split
    · rename_i heard
      rw [if_pos heard] at live
      rw [if_pos ⟨was, now.trans (readYes_eq_true.mpr yes), heard⟩] at events
      refine ⟨?_, events⟩
      rw [live_acted, live]
      exact recomputeOne_of_forced rfl rfl
    · rename_i unheard
      rw [if_neg unheard] at live
      rw [if_neg fun h => unheard h.2.2] at events
      exact ⟨live_acted_of_live fields live, events⟩
  case leaves =>
    have off : c.enrolled = false := by rw [now, no]; rfl
    have holds := holds_stationWritten s (n := n) c
    have events := events_stationWritten s (n := n) c
    rw [was, off, StationLive.adjusted, if_neg (by simp), if_pos ⟨rfl, rfl⟩] at live
    rw [if_pos ⟨was, off⟩] at holds
    rw [if_neg (by simp [was])] at events
    refine ⟨events, holds, ?_⟩
    rw [live_acted, live]
    exact recomputeOne_of_unenrolled (by rw [slot_stationWritten s c fits, if_pos rfl, off]) _

/-! ## Loop restarts (R39) -/

theorem loopParameter_of_number {parameter : Byte} {loop : Loop} (h : parameter.toNat = loopNumber loop) :
    loopParameter parameter = some loop := by
  cases loop
  · exact if_pos h
  · rw [loopParameter, if_neg (by rw [h]; decide)]
    exact if_pos h

theorem loopParameter_beyond {parameter : Byte} (h : 1 < parameter.toNat) : loopParameter parameter = none := by
  rw [loopParameter, if_neg (by omega), if_neg (by omega)]

theorem loopState_restartLoop (s : State) (loop l : Loop) :
    (s.restartLoop loop).loopState l = if l = loop then LoopState.fresh else s.loopState l := by
  cases loop <;> cases l <;> rfl

/-- A fresh live half stands whatever the recomputation finds (R19). -/
theorem recomputeOne_fresh (before after : State) (n : Nat) :
    recomputeOne before after n (StationLive.fresh (after.slot n).enrolled) = StationLive.fresh (after.slot n).enrolled := by
  cases on : (after.slot n).enrolled with
  | false => exact recomputeOne_of_unenrolled on _
  | true => exact recomputeOne_of_forced rfl rfl

theorem acted_restartLoop_frame (s : State) (loop : Loop) (fields : List (Nat × Nat)) :
    s.acted (s.restartLoop loop) fields =
      { s with stations := (s.acted (s.restartLoop loop) fields).stations, loopA := (s.restartLoop loop).loopA,
               loopB := (s.restartLoop loop).loopB, queue := (s.restartLoop loop).queue, holds := (s.restartLoop loop).holds,
               port := (s.reported fields).port } := by
  rw [acted_frame]
  generalize (s.acted (s.restartLoop loop) fields).stations = stations
  rw [restartLoop_frame]

/-- Settles O10: the stations, the controller and the queue entries of one loop start afresh. -/
theorem loopRestart : Obligations.LoopRestart := by
  unfold Obligations.LoopRestart
  refine ⟨fun s parameter loop on number => ?restarted, fun s parameter on high => ?refused⟩
  case refused => rw [exec_loopRestart on, loopParameter_beyond high]
  case restarted =>
    rw [exec_loopRestart on, loopParameter_of_number number]
    refine ⟨_, rfl, fun n fits here => ?_, fun n other => live_acted_of_live _ ?_, fun l => ?_, ?_, holds_restartLoop s loop, rfl,
      acted_restartLoop_frame s loop []⟩
    · rw [live_acted, live_restartLoop, if_pos ⟨here, fits⟩, ← slot_restartLoop s loop n]
      exact recomputeOne_fresh s _ n
    · rw [live_restartLoop, if_neg fun h => other h.1]
    · refine Eq.trans ?_ (loopState_restartLoop s loop l)
      cases l <;> rfl
    · cases loop <;> rfl

end Sys2Proof.Machine
end

section
/-! The poll round (R23 to R25): which address is next, and what the poll carries. -/
namespace Sys2Proof.Machine

open State

/-! ## Searching the addresses of a loop -/

/-- The first address that meets a test. -/
theorem addresses_find_eq_some {p : Nat → Bool} {a : Nat} (low : 1 ≤ a) (high : a ≤ 63) (here : p a = true)
    (first : ∀ b, 1 ≤ b → b < a → p b = false) : addresses.find? p = some a := by
  have found : (List.range 63).find? (p ∘ fun k => k + 1) = some (a - 1) := by
    rw [List.find?_range_eq_some]
    refine ⟨by simpa [Nat.sub_add_cancel low] using here, by simp; omega, fun j hj => ?_⟩
    simp [first (j + 1) (by omega) (by omega)]
  rw [addresses, List.find?_map, found]
  exact congrArg some (Nat.sub_add_cancel low)

theorem addresses_find_eq_none {p : Nat → Bool} (nowhere : ∀ b, 1 ≤ b → b ≤ 63 → p b = false) : addresses.find? p = none := by
  rw [List.find?_eq_none]
  intro b hb
  obtain ⟨k, hk, rfl⟩ := List.mem_map.mp hb
  rw [nowhere (k + 1) (by omega) (by have := List.mem_range.mp hk; omega)]
  decide

section
variable {s : State} {loop : Loop}

/-- The lowest enrolled address above a position (R23). -/
theorem nextEnrolled_eq_some {position a : Nat} (above : position < a) (low : 1 ≤ a) (high : a ≤ 63)
    (enrolled : s.enrolledAt loop a = true)
    (lowest : ∀ b, position < b → 1 ≤ b → b < a → s.enrolledAt loop b = false) : s.nextEnrolled loop position = some a := by
  refine addresses_find_eq_some low high (by simp [above, enrolled]) fun b lowB below => ?_
  by_cases aboveB : position < b
  · simp [lowest b aboveB lowB below]
  · simp [aboveB]

theorem nextEnrolled_eq_none {position : Nat}
    (rest : ∀ b, position < b → 1 ≤ b → b ≤ 63 → s.enrolledAt loop b = false) : s.nextEnrolled loop position = none := by
  refine addresses_find_eq_none fun b low high => ?_
  by_cases above : position < b
  · simp [rest b above low high]
  · simp [above]

/-- The first address after the cursor with no station enrolled, wrapping from 63 to 1 (R24). -/
theorem nextDiscovery_eq (s : State) (loop : Loop) (cursor : Nat) :
    s.nextDiscovery loop cursor =
      (addresses.find? fun a => decide (cursor < a) && !s.enrolledAt loop a).or
        (addresses.find? fun a => decide (a ≤ cursor) && !s.enrolledAt loop a) := by
  rw [State.nextDiscovery, List.find?_append, List.find?_filter, List.find?_filter]
  simp only [Bool.decide_and, Bool.decide_eq_true]

theorem nextDiscovery_eq_none {cursor : Nat} (full : ∀ b, 1 ≤ b → b ≤ 63 → s.enrolledAt loop b = true) :
    s.nextDiscovery loop cursor = none := by
  rw [nextDiscovery_eq, addresses_find_eq_none fun b low high => by simp [full b low high],
    addresses_find_eq_none fun b low high => by simp [full b low high]]
  rfl

theorem nextDiscovery_ahead {cursor a : Nat} (ahead : cursor < a) (low : 1 ≤ a) (high : a ≤ 63)
    (vacant : s.enrolledAt loop a = false)
    (first : ∀ b, cursor < b → 1 ≤ b → b < a → s.enrolledAt loop b = true) : s.nextDiscovery loop cursor = some a := by
  have found : (addresses.find? fun a => decide (cursor < a) && !s.enrolledAt loop a) = some a := by
    refine addresses_find_eq_some low high (by simp [ahead, vacant]) fun b lowB below => ?_
    by_cases aheadB : cursor < b
    · simp [first b aheadB lowB below]
    · simp [aheadB]
  rw [nextDiscovery_eq, found]
  rfl

theorem nextDiscovery_wrapped {cursor a : Nat} (behind : a ≤ cursor) (low : 1 ≤ a) (high : a ≤ 63)
    (vacant : s.enrolledAt loop a = false) (above : ∀ b, cursor < b → 1 ≤ b → b ≤ 63 → s.enrolledAt loop b = true)
    (first : ∀ b, 1 ≤ b → b < a → s.enrolledAt loop b = true) : s.nextDiscovery loop cursor = some a := by
  have none_ahead : (addresses.find? fun a => decide (cursor < a) && !s.enrolledAt loop a) = none := by
    refine addresses_find_eq_none fun b lowB highB => ?_
    by_cases ahead : cursor < b
    · simp [above b ahead lowB highB]
    · simp [ahead]
  have found : (addresses.find? fun a => decide (a ≤ cursor) && !s.enrolledAt loop a) = some a :=
    addresses_find_eq_some low high (by simp [behind, vacant]) fun b lowB below => by simp [first b lowB below]
  rw [nextDiscovery_eq, none_ahead, found]
  rfl

/-! ## Sending a poll (R25) -/

theorem loopState_sendPoll (s : State) (loop : Loop) (next : LoopState) (a : Nat) (discovery : Bool) (l : Loop) :
    (s.sendPoll loop next a discovery).loopState l =
      if l = loop then { next with inFlight := some (s.buildPoll loop a discovery) } else s.loopState l := by
  cases loop <;> cases l <;> rfl

theorem live_sendPoll_of_address (s : State) (loop : Loop) (next : LoopState) {a : Nat} (discovery : Bool) (fits : a ≤ 63) (n : Nat) :
    (s.sendPoll loop next a discovery).live n =
      if n = stationNumber loop a then { s.live n with answer := .none } else s.live n := by
  rw [live_sendPoll]
  refine if_congr ⟨fun h => h.1.symm, ?_⟩ rfl rfl
  rintro rfl
  exact ⟨rfl, stationNumber_lt (by omega)⟩

/-- What a poll sent comes to, in the words of R25. -/
theorem pollSent (s : State) (loop : Loop) (next : LoopState) {a : Nat} (discovery : Bool) (fits : a ≤ 63) :
    (s.sendPoll loop next a discovery).loopState loop = { next with inFlight := some (s.buildPoll loop a discovery) } ∧
      (∀ l, l ≠ loop → (s.sendPoll loop next a discovery).loopState l = s.loopState l) ∧
      (∀ n, (s.sendPoll loop next a discovery).live n =
        if n = stationNumber loop a then { s.live n with answer := .none } else s.live n) ∧
      s.sendPoll loop next a discovery =
        { s with stations := (s.sendPoll loop next a discovery).stations, loopA := (s.sendPoll loop next a discovery).loopA,
                 loopB := (s.sendPoll loop next a discovery).loopB } :=
  ⟨by rw [loopState_sendPoll, if_pos rfl], fun l other => by rw [loopState_sendPoll, if_neg other],
    live_sendPoll_of_address s loop next discovery fits, sendPoll_frame ..⟩

theorem buildPoll_poll (s : State) (loop : Loop) (a : Nat) :
    s.buildPoll loop a false =
      { address := a, answer := (s.live (stationNumber loop a)).answer, deny := (s.live (stationNumber loop a)).deny,
        image := if (s.live (stationNumber loop a)).imagePending then some (s.image (stationNumber loop a)) else none } := by
  simp [State.buildPoll]

theorem buildPoll_discovery (s : State) (loop : Loop) (a : Nat) :
    s.buildPoll loop a true =
      { address := a, answer := (s.live (stationNumber loop a)).answer, deny := (s.live (stationNumber loop a)).deny,
        image := none } := by
  simp [State.buildPoll]

end

/-- Settles O11: the three ways a round goes on. -/
theorem pollsCarryWhatIsOwed : Obligations.PollsCarryWhatIsOwed := by
  unfold Obligations.PollsCarryWhatIsOwed
  intro s loop on idle
  have free : ¬ (s.loopState loop).inFlight.isSome = true := by simp [idle]
  refine ⟨fun a next => ?poll, fun a rest low high vacant next => ?discovery, fun past full => ?full⟩
  case poll =>
    have due : s.nextPoll loop = some a ∧ a ≤ 63 := by
      rcases next with ⟨above, low, high, enrolled, lowest⟩ | ⟨past, rfl, full⟩
      · exact ⟨by rw [State.nextPoll, nextEnrolled_eq_some above low high enrolled lowest], high⟩
      · have none_left : s.nextEnrolled loop (s.loopState loop).position = none := nextEnrolled_eq_none fun b above _ _ => by omega
        have first : s.nextEnrolled loop 0 = some 1 :=
          nextEnrolled_eq_some (by omega) le_rfl (by omega) (full 1 le_rfl (by omega)) fun b _ _ _ => by omega
        rw [State.nextPoll, none_left, nextDiscovery_eq_none full]
        exact ⟨first, by omega⟩
    rw [exec_poll on, if_neg free, due.1]
    obtain ⟨controller, others, live, frame⟩ :=
      pollSent s loop { s.loopState loop with position := a } false due.2
    rw [buildPoll_poll] at controller
    exact ⟨_, rfl, controller, others, live, frame⟩
  case discovery =>
    have none_left : s.nextEnrolled loop (s.loopState loop).position = none := nextEnrolled_eq_none rest
    have due : s.nextDiscovery loop (s.loopState loop).cursor = some a := by
      rcases next with ⟨ahead, first⟩ | ⟨behind, above, first⟩
      · exact nextDiscovery_ahead ahead low high vacant first
      · exact nextDiscovery_wrapped behind low high vacant above first
    rw [exec_discoveryPoll on, if_neg (by simp [idle, none_left]), due]
    obtain ⟨controller, others, live, frame⟩ :=
      pollSent s loop { s.loopState loop with position := 0, cursor := a } true high
    rw [buildPoll_discovery] at controller
    exact ⟨_, rfl, controller, others, live, frame⟩
  case full =>
    have none_left : s.nextEnrolled loop (s.loopState loop).position = none := nextEnrolled_eq_none fun b above _ _ => by omega
    rw [exec_discoveryPoll on, if_neg (by simp [idle, none_left]), nextDiscovery_eq_none full]
    refine ⟨_, rfl, fun l => ?_, setLoop_frame ..⟩
    rw [loopState_setLoop]
    cases l <;> cases loop <;> rfl

end Sys2Proof.Machine
end

section
/-! Replies and misses on the loops (R25 to R33). -/
namespace Sys2Proof.Machine

open State

/-! ## What a reply is (R26) -/

section
variable {s : State} {loop : Loop} {address : Nat} {valid : Bool} {contents : State → Nat → State}

theorem replyOn_of_idle (idle : (s.loopState loop).inFlight = none) : s.replyOn loop address valid contents = s := by
  rw [State.replyOn, idle]

theorem replyOn_of_answer {p : PollSent} (inFlight : (s.loopState loop).inFlight = some p) (fits : valid = true)
    (answers : address = p.address) :
    s.replyOn loop address valid contents = contents (s.takeReply loop p) (stationNumber loop p.address) := by
  rw [State.replyOn, inFlight]
  exact if_pos ⟨fits, answers⟩

theorem replyOn_of_miss {p : PollSent} (inFlight : (s.loopState loop).inFlight = some p)
    (misses : valid = false ∨ address ≠ p.address) :
    s.replyOn loop address valid contents = s.recomputeImages (s.takeMiss loop p) := by
  rw [State.replyOn, inFlight]
  refine if_neg fun answers => ?_
  rcases misses with invalid | other
  · rw [invalid] at answers
    cases answers.1
  · exact other answers.2

end

/-! ## Valid replies (R25, R27) -/

/-- A valid reply keeps the expected bit and the answer owed, and removes the deny marks that the poll carried (R25). -/
theorem StationLive.replied_received_keeps (v : StationLive) (p : PollSent) (enrolled : Bool) (image : List Indicator) :
    ((v.received p enrolled image).replied enrolled).expected = v.expected ∧
      ((v.received p enrolled image).replied enrolled).answer = v.answer ∧
      ((v.received p enrolled image).replied enrolled).deny = v.deny &&& ~~~ p.deny := by
  have replied (w : StationLive) :
      (w.replied enrolled).expected = w.expected ∧ (w.replied enrolled).answer = w.answer ∧ (w.replied enrolled).deny = w.deny := by
    unfold StationLive.replied
    split
    · split <;> exact ⟨rfl, rfl, rfl⟩
    · exact ⟨rfl, rfl, rfl⟩
  obtain ⟨expected, answer, deny⟩ := replied (v.received p enrolled image)
  rw [expected, answer, deny]
  unfold StationLive.received
  split <;> exact ⟨rfl, rfl, rfl⟩

theorem takeReply_keeps (s : State) (loop : Loop) {p : PollSent} (fits : p.address < 64) :
    ((s.takeReply loop p).live (stationNumber loop p.address)).expected = (s.live (stationNumber loop p.address)).expected ∧
      ((s.takeReply loop p).live (stationNumber loop p.address)).answer = (s.live (stationNumber loop p.address)).answer ∧
      ((s.takeReply loop p).live (stationNumber loop p.address)).deny =
        (s.live (stationNumber loop p.address)).deny &&& ~~~ p.deny := by
  rw [live_takeReply s loop p fits]
  exact StationLive.replied_received_keeps ..

theorem address_lt {address : BitVec 6} {p : PollSent} (answers : address.toNat = p.address) : p.address < 64 :=
  answers ▸ address.isLt

/-- Settles O12: an IDLE reply has no contents beyond what any valid reply does. -/
theorem validReplySetsPresence : Obligations.ValidReplySetsPresence := by
  unfold Obligations.ValidReplySetsPresence
  intro s loop address p on inFlight answers
  have fits := address_lt answers
  rw [exec_idleReply on, replyOn_of_answer inFlight rfl answers]
  exact ⟨_, rfl, takeReply_taken s loop p fits, takeReply_frame s loop p, takeReply_keeps s loop fits⟩

/-! ## Key reports (R31 to R33) -/

/-- The contents of a report write, of the polled station, the expected bit, the answer owed and deny marks alone. -/
theorem takeReport_live (s : State) (loop : Loop) (n : Nat) (bit : Bool) (ts : List Transition) (m : Nat) :
    (s.takeReport loop n bit ts).live m =
      if n = m ∧ m < 128 then
        if (s.slot n).enrolled = false then (s.live n).unenrolledReport bit ts
        else if isNewReport (s.live n).expected bit = false then { s.live n with answer := .ack bit }
        else if ts.length ≤ 32 - s.queue.length then { s.live n with answer := .ack bit, expected := some (!bit) }
        else { s.live n with answer := .wait }
      else s.live m := by
  rw [← live_setLive]
  unfold State.takeReport
  simp only []
  split
  · rfl
  split
  · rfl
  split <;> rfl

theorem takeReport_queue (s : State) (loop : Loop) (n : Nat) (bit : Bool) (ts : List Transition) :
    (s.takeReport loop n bit ts).queue =
      if (s.slot n).enrolled = true ∧ isNewReport (s.live n).expected bit = true ∧ ts.length ≤ 32 - s.queue.length then
        s.queue ++ reportEntries n loop ts
      else s.queue := by
  unfold State.takeReport
  simp only []
  by_cases enrolled : (s.slot n).enrolled = true
  · rw [if_neg (by simp [enrolled])]
    by_cases new : isNewReport (s.live n).expected bit = true
    · rw [if_neg (by simp [new])]
      by_cases room : ts.length ≤ 32 - s.queue.length
      · rw [if_pos room, if_pos ⟨enrolled, new, room⟩]
      · rw [if_neg room, if_neg fun h => room h.2.2]
        rfl
    · rw [if_pos (Bool.eq_false_iff.mpr new), if_neg fun h => new h.2.1]
      rfl
  · rw [if_pos (Bool.eq_false_iff.mpr enrolled), if_neg fun h => enrolled h.1]
    rfl

theorem isNewReport_iff {expected : Option Bool} {bit : Bool} :
    isNewReport expected bit = true ↔ expected = none ∨ expected = some bit := by
  cases expected <;> simp [isNewReport]

/-- The fields that `ReplyTaken` reads of the polled station are kept by the contents of a report. -/
theorem replyTaken_of_contents {s u t : State} {loop : Loop} {p : PollSent} (taken : s.ReplyTaken u loop p)
    (loops : ∀ l, t.loopState l = u.loopState l) (events : t.events = u.events)
    (others : ∀ m, m ≠ stationNumber loop p.address → t.live m = u.live m)
    (polled : t.live (stationNumber loop p.address) =
      { u.live (stationNumber loop p.address) with
          expected := (t.live (stationNumber loop p.address)).expected
          deny := (t.live (stationNumber loop p.address)).deny
          answer := (t.live (stationNumber loop p.address)).answer }) : s.ReplyTaken t loop p := by
  obtain ⟨loopsTaken, othersTaken, rest⟩ := taken
  refine ⟨fun l => (loops l).trans (loopsTaken l), fun m other => (others m other).trans (othersTaken m other), ?_⟩
  rw [polled, events]
  exact rest

theorem unenrolledReport_eq (v : StationLive) (bit : Bool) (ts : List Transition) :
    v.unenrolledReport bit ts =
      { v with expected := (v.unenrolledReport bit ts).expected, deny := (v.unenrolledReport bit ts).deny,
               answer := (v.unenrolledReport bit ts).answer } := by
  unfold StationLive.unenrolledReport
  split <;> rfl

theorem unenrolledReport_answer (v : StationLive) (bit : Bool) (ts : List Transition) :
    (v.unenrolledReport bit ts).answer = .ack bit := by
  unfold StationLive.unenrolledReport
  split <;> rfl

theorem controlMask_getLsbD (control c : Nat) (fits : c < 16) : (controlMask control).getLsbD c = (control == c) := by
  rw [controlMask, BitVec.getLsbD_ofNat, Nat.testBit_two_pow, beq_eq_decide]
  simp [fits]

/-- The deny marks that a report's controls make (R33). -/
theorem reportMask_getLsbD (ts : List Transition) {c : Nat} (fits : c < 16) :
    (reportMask ts).getLsbD c = ts.any fun x => x.control.toNat == c := by
  have fold (l : List Transition) (m : BitVec 16) :
      (l.foldl (fun m t => m ||| controlMask t.control.toNat) m).getLsbD c =
        (m.getLsbD c || l.any fun x => x.control.toNat == c) := by
    induction l generalizing m with
    | nil => simp
    | cons x xs ih =>
      rw [List.foldl_cons, ih, BitVec.getLsbD_or, controlMask_getLsbD _ _ fits, List.any_cons, Bool.or_assoc]
  exact (fold ts 0).trans (by simp)

theorem takeReport_loopState (s : State) (loop : Loop) (n : Nat) (bit : Bool) (ts : List Transition) (l : Loop) :
    (s.takeReport loop n bit ts).loopState l = s.loopState l := by
  rw [takeReport_frame]
  cases l <;> rfl

theorem takeReport_events (s : State) (loop : Loop) (n : Nat) (bit : Bool) (ts : List Transition) :
    (s.takeReport loop n bit ts).events = s.events := by
  rw [takeReport_frame]

theorem takeReply_queue (s : State) (loop : Loop) (p : PollSent) : (s.takeReply loop p).queue = s.queue := by
  rw [takeReply_frame]

theorem takeReport_takeReply_frame (s : State) (loop : Loop) (p : PollSent) (n : Nat) (bit : Bool) (ts : List Transition) :
    (s.takeReply loop p).takeReport loop n bit ts =
      { s with stations := ((s.takeReply loop p).takeReport loop n bit ts).stations,
               loopA := ((s.takeReply loop p).takeReport loop n bit ts).loopA,
               loopB := ((s.takeReply loop p).takeReport loop n bit ts).loopB,
               queue := ((s.takeReply loop p).takeReport loop n bit ts).queue,
               events := ((s.takeReply loop p).takeReport loop n bit ts).events } := by
  rw [takeReport_frame]
  generalize ((s.takeReply loop p).takeReport loop n bit ts).stations = stations
  generalize ((s.takeReply loop p).takeReport loop n bit ts).queue = queue
  rw [takeReply_frame]

theorem takeReport_live_other (s : State) (loop : Loop) {n m : Nat} (bit : Bool) (ts : List Transition) (other : m ≠ n) :
    (s.takeReport loop n bit ts).live m = s.live m := by
  rw [takeReport_live, if_neg fun h => other h.1.symm]

theorem takeReport_live_kept (s : State) (loop : Loop) {n : Nat} (bit : Bool) (ts : List Transition) (fits : n < 128) :
    (s.takeReport loop n bit ts).live n =
      { s.live n with expected := ((s.takeReport loop n bit ts).live n).expected
                      deny := ((s.takeReport loop n bit ts).live n).deny
                      answer := ((s.takeReport loop n bit ts).live n).answer } := by
  rw [takeReport_live, if_pos ⟨rfl, fits⟩]
  split
  · exact unenrolledReport_eq ..
  split
  · rfl
  split <;> rfl

theorem takeReport_live_enrolled {s : State} (loop : Loop) {n : Nat} (bit : Bool) (ts : List Transition) (fits : n < 128)
    (enrolled : (s.slot n).enrolled = true) :
    (s.takeReport loop n bit ts).live n =
      if isNewReport (s.live n).expected bit = false then { s.live n with answer := .ack bit }
      else if ts.length ≤ 32 - s.queue.length then { s.live n with answer := .ack bit, expected := some (!bit) }
      else { s.live n with answer := .wait } := by
  rw [takeReport_live, if_pos ⟨rfl, fits⟩, if_neg (by simp [enrolled])]

theorem takeReport_live_unenrolled {s : State} (loop : Loop) {n : Nat} (bit : Bool) (ts : List Transition) (fits : n < 128)
    (off : (s.slot n).enrolled = false) :
    (s.takeReport loop n bit ts).live n = (s.live n).unenrolledReport bit ts := by
  rw [takeReport_live, if_pos ⟨rfl, fits⟩, if_pos off]

/-- Settles O13: the contents of a report, after what any valid reply does. -/
theorem keyReportsAreTakenWhole : Obligations.KeyReportsAreTakenWhole := by
  unfold Obligations.KeyReportsAreTakenWhole
  intro s loop address bit ts p on inFlight answers some few
  have fits := address_lt answers
  have valid : reportFits ts = true := by simp [reportFits, some, few]
  have station := stationNumber_lt (loop := loop) fits
  obtain ⟨expected, answer, deny⟩ := takeReply_keeps s loop fits
  rw [exec_keyReport on, replyOn_of_answer inFlight valid answers]
  refine ⟨_, rfl, replyTaken_of_contents (takeReply_taken s loop p fits) (takeReport_loopState _ _ _ _ _) (takeReport_events ..)
    (fun m other => takeReport_live_other _ _ _ _ other) (takeReport_live_kept _ _ _ _ station), takeReport_takeReply_frame ..,
    fun enrolled => ?enrolled, fun off => ?unenrolled⟩
  all_goals
    rw [← slot_takeReply s loop p] at *
    rw [← expected, ← isNewReport_iff, ← takeReply_queue s loop p, takeReport_queue, ← deny]
  case enrolled =>
    rw [takeReport_live_enrolled loop bit ts station enrolled]
    refine ⟨?_, fun new room => ?_, fun new full => ?_, fun old => ?_⟩
    · split
      · rfl
      split <;> rfl
    · rw [if_neg (by simp [new]), if_pos room, if_pos ⟨enrolled, new, room⟩]
      exact ⟨rfl, rfl, rfl⟩
    · rw [if_neg (by simp [new]), if_neg (Nat.not_le.mpr full), if_neg fun h => Nat.not_le.mpr full h.2.2]
      exact ⟨rfl, rfl, rfl⟩
    · rw [if_pos (Bool.eq_false_iff.mpr old), if_neg fun h => old h.2.1]
      exact ⟨rfl, rfl, rfl⟩
  case unenrolled =>
    rw [takeReport_live_unenrolled loop bit ts station off, if_neg fun h => by rw [off] at h; cases h.1]
    refine ⟨rfl, unenrolledReport_answer .., fun new => ?_, fun old => ?_⟩
    · rw [StationLive.unenrolledReport, if_pos new]
      refine ⟨rfl, fun c low => ?_⟩
      rw [BitVec.getLsbD_or, reportMask_getLsbD ts low]
    · rw [StationLive.unenrolledReport, if_neg old]
      exact ⟨rfl, rfl⟩

end Sys2Proof.Machine
end

section
/-! Misses on the loops (R26, R28, R29). -/
namespace Sys2Proof.Machine

open State

/-- A miss latches a STATION event where it makes a station SILENT or UNKNOWN (R28). -/
theorem events_takeMiss (s : State) (loop : Loop) (p : PollSent) :
    (s.takeMiss loop p).events =
      if (s.slot (stationNumber loop p.address)).enrolled then
        if (s.live (stationNumber loop p.address)).missCount = 2 then (s.latchStation (stationNumber loop p.address)).events
        else s.events
      else if (s.live (stationNumber loop p.address)).presence = .heard ∧
          2 ≤ (s.live (stationNumber loop p.address)).missCount then (s.latchStation (stationNumber loop p.address)).events
      else s.events := by
  have ended : (s.endPoll loop).events = s.events := by cases loop <;> rfl
  have latched (v : StationLive) : (((s.endPoll loop).setLive (stationNumber loop p.address) v).latchStation
      (stationNumber loop p.address)).events = (s.latchStation (stationNumber loop p.address)).events := by
    cases loop <;> rfl
  simp only [State.takeMiss]
  by_cases enrolled : (s.slot (stationNumber loop p.address)).enrolled = true
  · rw [if_pos enrolled, if_pos enrolled]
    split
    · exact latched _
    · exact ended
  · rw [if_neg enrolled, if_neg enrolled]
    by_cases heard : (s.live (stationNumber loop p.address)).presence = .heard
    · rw [if_pos heard]
      by_cases third : 2 ≤ (s.live (stationNumber loop p.address)).missCount
      · rw [if_pos third, if_pos ⟨heard, third⟩]
        exact latched _
      · rw [if_neg third, if_neg fun h => third h.2]
        exact ended
    · rw [if_neg heard, if_neg fun h => heard h.1]
      exact ended

theorem loopState_takeMiss (s : State) (loop : Loop) (p : PollSent) (l : Loop) :
    (s.takeMiss loop p).loopState l = if l = loop then { s.loopState l with inFlight := none } else s.loopState l := by
  have ended (m : Loop) : (s.endPoll loop).loopState m = if m = loop then { s.loopState m with inFlight := none } else s.loopState m := by
    cases loop <;> cases m <;> rfl
  rw [← ended]
  simp only [State.takeMiss]
  split
  · split <;> cases l <;> rfl
  split
  · split <;> cases l <;> rfl
  · rfl

/-- A miss that leaves the pool alone leaves every input of an image alone. -/
theorem recomputeImages_takeMiss_of_holds {s : State} {loop : Loop} {p : PollSent} (holds : (s.takeMiss loop p).holds = s.holds) :
    s.recomputeImages (s.takeMiss loop p) = s.takeMiss loop p := by
  refine recomputeImages_same fun n => ?_
  rw [takeMiss_frame, holds]
  rfl

theorem recomputed_takeMiss_frame (s : State) (loop : Loop) (p : PollSent) :
    s.recomputeImages (s.takeMiss loop p) =
      { s with stations := (s.recomputeImages (s.takeMiss loop p)).stations, loopA := (s.takeMiss loop p).loopA,
               loopB := (s.takeMiss loop p).loopB, holds := (s.takeMiss loop p).holds, events := (s.takeMiss loop p).events } := by
  rw [takeMiss_frame]
  rfl

theorem live_takeMiss_polled (s : State) (loop : Loop) {p : PollSent} (fits : p.address < 64) :
    (s.takeMiss loop p).live (stationNumber loop p.address) =
      (s.live (stationNumber loop p.address)).missed (s.slot (stationNumber loop p.address)).enrolled := by
  rw [live_takeMiss, if_pos ⟨rfl, stationNumber_lt fits⟩]

theorem exec_stationMiss_miss {s : State} (on : s.powered = true) {loop : Loop} {p : PollSent}
    (inFlight : (s.loopState loop).inFlight = some p) :
    exec (.stationMiss loop) s = .next (s.recomputeImages (s.takeMiss loop p)) := by
  rw [exec_stationMiss on, replyOn_of_miss inFlight (Or.inl rfl)]

/-- A reply that is not valid does what a miss does, with power and without (R26). -/
theorem exec_miss_of_invalid {s : State} {loop : Loop} {p : PollSent} (inFlight : (s.loopState loop).inFlight = some p)
    {address : Nat} {valid : Bool} (misses : valid = false ∨ address ≠ p.address) (contents : State → Nat → State) :
    whenPowered s (s.replyOn loop address valid contents) = exec (.stationMiss loop) s := by
  rw [replyOn_of_miss inFlight misses, exec, execStationMiss, replyOn_of_miss inFlight (Or.inl rfl)]

/-- Settles O14: the third miss in a row, the others, and what is a miss. -/
theorem missesAndInvalidReplies : Obligations.MissesAndInvalidReplies := by
  unfold Obligations.MissesAndInvalidReplies
  refine ⟨fun s loop p on inFlight fits => ?miss, fun s loop p address bit ts inFlight invalid => ⟨?report, fun other => ?idle⟩,
    fun s loop address bit ts on idle => ?ignored⟩
  case miss =>
    rw [exec_stationMiss_miss on inFlight]
    have live := live_takeMiss_polled s loop fits
    have holds := holds_takeMiss s loop p
    have events := events_takeMiss s loop p
    have same := recomputeImages_takeMiss_of_holds (s := s) (loop := loop) (p := p)
    refine ⟨_, rfl, fun l => ?_, recomputed_takeMiss_frame s loop p, fun n other => ?_, fun enrolled early => ?early,
      fun enrolled third => ?third, fun off => ?off⟩
    · rw [← loopState_takeMiss s loop p]
      cases l <;> rfl
    · exact live_acted_of_live [] (by rw [live_takeMiss, if_neg fun h => other h.1.symm])
    case early =>
      rw [enrolled, StationLive.missed, if_pos rfl, if_neg early] at live
      rw [if_neg fun h => early h.2] at holds
      rw [if_pos enrolled, if_neg early] at events
      rw [same holds]
      exact ⟨holds, events, live⟩
    case third =>
      rw [enrolled, StationLive.missed, if_pos rfl, if_pos third] at live
      rw [if_pos ⟨enrolled, third⟩] at holds
      rw [if_pos enrolled, if_pos third] at events
      refine ⟨events, holds, ?_⟩
      rw [live_recomputeImages, live]
      exact recomputeOne_pending ..
    case off =>
      rw [if_neg (by simp [off])] at holds
      rw [off, StationLive.missed, if_neg (by decide)] at live
      rw [if_neg (by simp [off])] at events
      rw [same holds]
      refine ⟨holds, ?_⟩
      by_cases heard : (s.live (stationNumber loop p.address)).presence = .heard
      · rw [if_pos heard] at live ⊢
        by_cases third : 2 ≤ (s.live (stationNumber loop p.address)).missCount
        · rw [if_pos third] at live
          rw [if_pos ⟨heard, third⟩] at events
          rw [if_neg (Nat.not_lt.mpr third)]
          exact ⟨live, events⟩
        · rw [if_neg third] at live
          rw [if_neg fun h => third h.2] at events
          rw [if_pos (Nat.not_le.mp third)]
          exact ⟨live, events⟩
      · rw [if_neg heard] at live ⊢
        rw [if_neg fun h => heard h.1] at events
        exact ⟨live, events⟩
  case report =>
    refine exec_miss_of_invalid inFlight ?_ _
    rcases invalid with other | empty | long
    · exact Or.inr other
    · exact Or.inl (by simp [reportFits, empty])
    · exact Or.inl (by simp [reportFits]; omega)
  case idle => exact exec_miss_of_invalid inFlight (Or.inr other) _
  case ignored =>
    rw [exec_keyReport on, exec_idleReply on, exec_stationMiss on, replyOn_of_idle idle, replyOn_of_idle idle,
      replyOn_of_idle idle]
    exact ⟨rfl, rfl, rfl⟩

end Sys2Proof.Machine
end

section
/-! The console (R91 to R93, R131, R132): placements and releases. -/
namespace Sys2Proof.Machine

open State

/-! ## Targets of the console -/

/-- The two forms of a console target, with the reference that a refusal names. -/
theorem consoleTarget_of_kind {kind number : Nat} {target : Target} {ref : SenseRef}
    (form : kind = 1 ∧ target = .circuit number ∧ ref = .circuit number ∨
      kind = 2 ∧ target = .group number ∧ ref = .group number) :
    consoleTarget kind number = (if target.fits then some target else none) ∧ consoleRef kind number = ref := by
  rcases form with ⟨rfl, rfl, rfl⟩ | ⟨rfl, rfl, rfl⟩
  · exact ⟨if_congr (by simp [Target.fits]) rfl rfl, rfl⟩
  · exact ⟨if_congr (by simp [Target.fits]) rfl rfl, rfl⟩

theorem consoleTarget_unknown {kind : Nat} (number : Nat) (notCircuit : kind ≠ 1) (notGroup : kind ≠ 2) :
    consoleTarget kind number = none ∧ consoleRef kind number = .none :=
  match kind with
  | 0 => ⟨rfl, rfl⟩
  | 1 => absurd rfl notCircuit
  | 2 => absurd rfl notGroup
  | _ + 3 => ⟨rfl, rfl⟩

/-! ## Placements (R91, R129, R131) -/

/-- A placement acted on, its holds in the words of `PlacedOn`. -/
theorem placedOn_acted (s : State) (rq : Placement) {targets : List (Nat × Nat)} (fields : List (Nat × Nat))
    (distinct : (targets.map Prod.fst).Nodup) (room : lacking s.holds rq.originator targets ≤ freeRecords s.holds) :
    s.PlacedOn (s.acted (s.place rq targets) fields) rq targets := place_spec s rq targets distinct room

theorem presetBusy_iff {s : State} {p : Nat} :
    s.presetBusy p = true ↔ ∃ h ∈ s.holds, h.originator = .preset p ∧ h.state = .fading := by
  simp [State.presetBusy]

theorem isEmpty_of_ne {α : Type} {l : List α} (h : l ≠ []) : ¬ l.isEmpty = true := fun empty => h (List.isEmpty_iff.mp empty)

/-- Settles O24: the checks of PLACE_HOLD and RECALL_PRESET in their order, then the placement. -/
theorem consolePlacements : Obligations.ConsolePlacements := by
  unfold Obligations.ConsolePlacements
  refine ⟨fun s channel targetKind number level fade priority on => ⟨fun notCircuit notGroup => ?unknown,
    fun target ref form => ⟨fun bad => ?bad, fun channelFits targetFits levelFits fadeFits low high => ?place⟩⟩,
    fun s preset priority on => ⟨fun bad => ?badPreset, fun presetFits low high => ?recalled⟩⟩
  case unknown =>
    obtain ⟨target, ref⟩ := consoleTarget_unknown number.toNat notCircuit notGroup
    rw [exec_placeHold on, target, ref]
  case bad =>
    obtain ⟨named, refers⟩ := consoleTarget_of_kind form
    rw [exec_placeHold on, named, refers]
    cases fits : target.fits with
    | false => rfl
    | true =>
      rw [fits] at bad
      exact congrArg _ (if_pos (by simpa using bad))
  case place =>
    obtain ⟨named, refers⟩ := consoleTarget_of_kind form
    rw [exec_placeHold on, named, refers, targetFits]
    have range : ¬ (7 < channel.toNat ∨ 1000 < level.toNat ∨ 600 < fade.toNat ∨ priority.toNat = 0 ∨ 7 < priority.toNat) := by
      omega
    simp only [if_true, if_neg range]
    refine ⟨fun none => ?_, fun some full => ?_, fun some room distinct => ?_⟩
    · rw [if_pos (List.isEmpty_iff.mpr none)]
    · rw [if_neg (isEmpty_of_ne some), if_pos full]
    · rw [if_neg (isEmpty_of_ne some), if_neg (Nat.not_lt.mpr room)]
      exact ⟨_, rfl, placedOn_acted s _ _ distinct room, sameButPending_acted _ fun _ => rfl, rfl, rfl⟩
  case badPreset =>
    rw [exec_recallPreset on]
    exact congrArg _ (if_pos bad)
  case recalled =>
    have range : ¬ (47 < preset.toNat ∨ priority.toNat = 0 ∨ 7 < priority.toNat) := by omega
    rw [exec_recallPreset on]
    simp only [if_neg range]
    refine ⟨fun none => ?_, fun some busy => ?_, fun idle => ⟨fun some full => ?_, fun some room distinct => ?_⟩⟩
    · rw [if_pos (List.isEmpty_iff.mpr none)]
    · rw [if_neg (isEmpty_of_ne some), if_pos (presetBusy_iff.mpr busy)]
    all_goals
      have still : ¬ s.presetBusy preset.toNat = true := fun busy => by
        obtain ⟨h, hh, originator, fading⟩ := presetBusy_iff.mp busy
        exact idle h hh originator fading
    · rw [if_neg (isEmpty_of_ne some), if_neg still, if_pos full]
    · rw [if_neg (isEmpty_of_ne some), if_neg still, if_neg (Nat.not_lt.mpr room)]
      exact ⟨_, rfl, placedOn_acted s _ _ distinct room, sameButPending_acted _ fun _ => rfl, rfl, rfl⟩

/-! ## Releases (R77, R92, R93, R132) -/

/-- A release, hold by hold, in the words of R77. -/
theorem releaseWhere_eq (p : Hold → Bool) (pool : List Hold) :
    releaseWhere p pool = pool.filterMap fun h =>
      if h.state = .fadingOut ∨ p h = false then some h
      else if h.parked = true ∨ h.level = 0 ∨ h.placedFade = 0 then none
      else some { h with state := .fadingOut, start := h.level, target := 0, length := 4 * h.placedFade, elapsed := 0,
                         ramp := none, expiry := none } := by
  refine congrArg (fun f => pool.filterMap f) (funext fun h => ?_)
  have left : (h.isLive && p h) = true ↔ ¬ (h.state = .fadingOut ∨ p h = false) := by simp [Hold.isLive]
  by_cases kept : h.state = .fadingOut ∨ p h = false
  · rw [if_pos kept, if_neg fun selected => left.mp selected kept]
  · rw [if_neg kept, if_pos (left.mpr kept)]
    rfl

/-- What a release acted on leaves. -/
theorem released_acted (s : State) (p : Hold → Bool) (fields : List (Nat × Nat)) :
    (s.acted (s.release p) fields).holds = releaseWhere p s.holds ∧ s.SameButPending (s.acted (s.release p) fields) ∧
      (s.acted (s.release p) fields).port = (s.reported fields).port ∧
      s.acted (s.release p) fields =
        { s with stations := (s.acted (s.release p) fields).stations, holds := (s.acted (s.release p) fields).holds,
                 port := (s.acted (s.release p) fields).port } :=
  ⟨rfl, sameButPending_acted _ fun _ => rfl, rfl, rfl⟩

/-- Settles O25: the three releasing commands, and the release of each hold. -/
theorem releasesFadeOut : Obligations.ReleasesFadeOut := by
  unfold Obligations.ReleasesFadeOut
  refine ⟨fun s channel targetKind number on => ⟨fun notCircuit notGroup => ?unknown,
    fun target ref form => ⟨fun bad => ?bad, fun channelFits targetFits => ?release⟩⟩, fun s c n o on form => ?originator,
    fun s p on high => ?badPreset, fun s i on high => ?badOwner, releaseWhere_eq⟩
  case unknown =>
    obtain ⟨target, ref⟩ := consoleTarget_unknown number.toNat notCircuit notGroup
    rw [exec_releaseHold on, target, ref]
  case bad =>
    obtain ⟨named, refers⟩ := consoleTarget_of_kind form
    rw [exec_releaseHold on, named, refers]
    cases fits : target.fits with
    | false => rfl
    | true =>
      rw [fits] at bad
      exact congrArg _ (if_pos (by simpa using bad))
  case release =>
    obtain ⟨named, refers⟩ := consoleTarget_of_kind form
    rw [exec_releaseHold on, named, refers, targetFits]
    exact ⟨_, congrArg _ (if_neg (Nat.not_lt.mpr channelFits)), released_acted s _ _⟩
  case originator =>
    rcases form with ⟨p, rfl, rfl, fits, rfl⟩ | ⟨i, rfl, rfl, fits, rfl⟩
    · rw [exec_releasePreset on, if_neg (Nat.not_lt.mpr fits)]
      exact ⟨_, rfl, released_acted s _ _⟩
    · rw [exec_releaseOwner on, if_neg (Nat.not_lt.mpr fits)]
      exact ⟨_, rfl, released_acted s _ _⟩
  case badPreset => rw [exec_releasePreset on, if_pos high]
  case badOwner => rw [exec_releaseOwner on, if_pos high]

end Sys2Proof.Machine
end

section
/-! The resolver: which entry it takes (R38, R41), the checks on a PRESS edge (R43 to R51), refusals (R52, R53). -/
namespace Sys2Proof.Machine

open State

/-! ## The entry taken (R38, R41) -/

section
variable {s : State} {e : PressEntry} {rest : List PressEntry} {edge : Edge} {resolve : State → PressEntry → State}

theorem nextEntry_of_head (idle : s.current = none) (queue : s.queue = e :: rest) : s.nextEntry = some e := by
  rw [State.nextEntry, idle, queue]
  rfl

theorem takeEntry_of_head (idle : s.current = none) (queue : s.queue = e :: rest) : s.takeEntry = { s with queue := rest } := by
  rw [State.takeEntry, idle, queue]
  rfl

theorem resolveNext_of_head (idle : s.current = none) (queue : s.queue = e :: rest) (same : e.edge = edge) :
    s.resolveNext edge resolve = s.recomputeImages (resolve { s with queue := rest } e) := by
  rw [State.resolveNext, nextEntry_of_head idle queue, takeEntry_of_head idle queue]
  exact if_pos same

theorem resolveNext_of_other (idle : s.current = none) (queue : s.queue = e :: rest) (other : e.edge ≠ edge) :
    s.resolveNext edge resolve = s := by
  rw [State.resolveNext, nextEntry_of_head idle queue]
  exact if_neg other

theorem resolveNext_of_empty (idle : s.current = none) (queue : s.queue = []) : s.resolveNext edge resolve = s := by
  rw [State.resolveNext, State.nextEntry, idle, queue]
  rfl

/-- The checks read no queue. -/
theorem checkPress_queue (s : State) (queue : List PressEntry) (e : PressEntry) :
    State.checkPress { s with queue := queue } e = s.checkPress e := rfl

theorem findBinding_queue (s : State) (queue : List PressEntry) (e : PressEntry) :
    State.findBinding { s with queue := queue } e = s.findBinding e := rfl

/-- A PRESS edge at the head of the queue. -/
theorem exec_pressEdge_head (on : s.powered = true) (idle : s.current = none) (queue : s.queue = e :: rest)
    (press : e.edge = .press) :
    exec .pressEdge s = .next (s.recomputeImages (State.resolvePress { s with queue := rest } e)) := by
  rw [exec_pressEdge on, resolveNext_of_head idle queue press]

theorem resolvePress_of_error {r : Refused} (refused : s.checkPress e = .error r) : s.resolvePress e = s.refusePress e r := by
  rw [State.resolvePress, refused]

theorem resolvePress_of_ok {i : Nat} (accepted : s.checkPress e = .ok i) : s.resolvePress e = s.performPress e i := by
  rw [State.resolvePress, accepted]

/-- An accepted PRESS edge at the head of the queue. -/
theorem exec_pressEdge_ok (on : s.powered = true) (idle : s.current = none) (queue : s.queue = e :: rest)
    (press : e.edge = .press) {i : Nat} (accepted : s.checkPress e = .ok i) :
    exec .pressEdge s = .next (s.recomputeImages (State.performPress { s with queue := rest } e i)) := by
  rw [exec_pressEdge_head on idle queue press, resolvePress_of_ok (s := { s with queue := rest }) accepted]

end

/-! ## Refusals (R41, R52, R53) -/

theorem refusePress_recomputed (s : State) (rest : List PressEntry) (e : PressEntry) (r : Refused) :
    s.recomputeImages (State.refusePress { s with queue := rest } e r) = State.refusePress { s with queue := rest } e r :=
  recomputeImages_same fun _ => rfl

theorem live_refusePress (s : State) (e : PressEntry) (r : Refused) (n : Nat) :
    (s.refusePress e r).live n =
      if e.station = n ∧ n < 128 then { s.live e.station with deny := (s.live e.station).deny ||| controlMask e.control }
      else s.live n := live_setLive ..

/-- Settles O37: a refused PRESS writes the refusal record, the event and one deny mark, none of them an input of an image. -/
theorem refusedPress : Obligations.RefusedPress := by
  unfold Obligations.RefusedPress
  refine ⟨fun s e rest r on idle queue press refused => ?refusal, fun s e rest on idle queue => ⟨fun press => ?press, fun release => ?release⟩,
    fun s on idle queue => ?empty⟩
  case refusal =>
    rw [exec_pressEdge_head on idle queue press, resolvePress_of_error (s := { s with queue := rest }) refused,
      refusePress_recomputed]
    refine ⟨_, rfl, rfl, rfl, fun n fits => (live_refusePress { s with queue := rest } e r n).trans ?_, rfl⟩
    by_cases here : n = e.station
    · subst here
      rw [if_pos ⟨rfl, fits⟩, if_pos rfl]
      rfl
    · rw [if_neg fun h => here h.1.symm, if_neg here]
      rfl
  case press => rw [exec_releaseEdge on, resolveNext_of_other idle queue (by rw [press]; decide)]
  case release => rw [exec_pressEdge on, resolveNext_of_other idle queue (by rw [release]; decide)]
  case empty =>
    rw [exec_pressEdge on, exec_releaseEdge on, resolveNext_of_empty idle queue, resolveNext_of_empty idle queue]
    exact ⟨rfl, rfl⟩

/-! ## The checks on a PRESS edge (R43 to R51) -/

/-- Checks 5 to 10, once checks 1 to 4 have found the binding (R46 to R51). -/
theorem checkPress_of_found {s : State} {e : PressEntry} {i : Nat} (found : s.findBinding e = .ok i) :
    s.checkPress e =
      if (s.slot e.station).authority < (s.binding i).authority then .error ⟨.authorityLow, some i⟩
      else if s.zoneLocks (s.pressZone (s.binding i)) (s.slot e.station).authority then .error ⟨.zoneLocked, some i⟩
      else if (s.binding i).kind = .holdToRun ∧ (s.live e.station).presence ≠ .online then .error ⟨.stationSilent, some i⟩
      else match s.checkTargets (s.binding i) ((s.binding i).originator i)
          (s.targets (s.binding i).target (s.binding i).level) with
        | some code => .error ⟨code, some i⟩
        | none => .ok i := by
  rw [State.checkPress, found] <;> rfl

theorem checkPress_of_lost {s : State} {e : PressEntry} {r : Refused} (lost : s.findBinding e = .error r) :
    s.checkPress e = .error r := by
  rw [State.checkPress, lost]

/-- Check 6 in the words of R46. -/
theorem zoneLocks_iff {s : State} {zone authority : Nat} :
    s.zoneLocks zone authority = true ↔
      s.zoneMinimum zone = .closed ∨ ∃ a, s.zoneMinimum zone = .atLeast a ∧ authority < a.val := by
  unfold State.zoneLocks
  cases s.zoneMinimum zone <;> simp

/-- A TOGGLE switches on where no live hold of the originator stands on a target circuit (R59). -/
theorem anyLiveOn_eq_false {s : State} {o : Originator} {targets : List (Nat × Nat)} :
    s.anyLiveOn o targets = false ↔
      ∀ h ∈ s.holds, h.originator = o → h.state ≠ .fadingOut → ∀ x ∈ targets, x.1 ≠ h.circuit := by
  unfold State.anyLiveOn
  rw [List.any_eq_false]
  refine forall₂_congr fun h _ => ?_
  simp only [Hold.isLive, Hold.isOn, Bool.and_eq_true, bne_iff_ne, beq_iff_eq, List.any_eq_true, not_and, not_exists]
  exact ⟨fun none originator live x hx => none live originator x hx, fun none live originator x hx => none originator live x hx⟩

/-- The kinds that create holds, of those with a target (check 10, R43). -/
theorem placesHolds_iff {kind : BindingKind} {off : Bool} (targeted : kind.hasTarget = true) :
    placesHolds kind off = true ↔ kind ≠ .latchOff ∧ (kind = .toggle → off = false) := by
  cases kind <;> simp [placesHolds, BindingKind.hasTarget] at targeted ⊢

/-- Check 9 in the words of R50. -/
theorem recalls_iff {s : State} {b : Binding} {off : Bool} :
    (recalledPreset b off).any s.presetBusy = true ↔
      (b.kind = .latchOn ∨ b.kind = .toggle ∧ off = false) ∧
        ∃ p, b.target = .preset p ∧ ∃ h ∈ s.holds, h.originator = .preset p ∧ h.state = .fading := by
  unfold recalledPreset
  cases target : b.target with
  | preset p =>
    cases kind : b.kind <;> cases off <;> simp [presetBusy_iff]
  | _ => simp

/-- Checks 8 to 10 (R49 to R51), on a kind with a target. -/
theorem checkTargets_of_targeted {s : State} {b : Binding} {o : Originator} {targets : List (Nat × Nat)}
    (targeted : b.kind.hasTarget = true) :
    s.checkTargets b o targets =
      if targets = [] then some (noCircuitCode b.target)
      else if (recalledPreset b (s.anyLiveOn o targets)).any s.presetBusy then some .presetBusy
      else if placesHolds b.kind (s.anyLiveOn o targets) = true ∧ freeRecords s.holds < lacking s.holds o targets then
        some .poolFull
      else none := by
  unfold State.checkTargets
  simp only [targeted, Bool.true_eq_false, if_false, List.isEmpty_iff]

theorem hasTarget_iff {kind : BindingKind} : kind.hasTarget = true ↔ kind ≠ .stationClear ∧ kind ≠ .panic := by
  cases kind <;> simp [BindingKind.hasTarget]

theorem noCircuitCode_eq (target : Target) :
    noCircuitCode target = (match target with | .circuit _ => .circuitRetired | _ => .noTarget) := by
  cases target <;> rfl

/-- Settles O38: each clause is one branch of the checks. -/
theorem pressChecksInOrder : Obligations.PressChecksInOrder := by
  unfold Obligations.PressChecksInOrder
  intro s e
  simp only []
  refine ⟨fun off => ?unenrolled, fun enrolled beyond => ?control, fun enrolled within beyond => ?table,
    fun enrolled within inTable absent => ?absent, fun enrolled within inTable present => ?found⟩
  case unenrolled => exact checkPress_of_lost (if_pos off)
  all_goals have on : ¬ (s.slot e.station).enrolled = false := by simp [enrolled]
  case control => exact checkPress_of_lost ((if_neg on).trans (if_pos beyond))
  all_goals have reaches : ¬ (s.slot e.station).count ≤ e.control := Nat.not_le.mpr within
  case table => exact checkPress_of_lost ((if_neg on).trans ((if_neg reaches).trans (if_pos beyond)))
  all_goals have indexed : ¬ 1023 < (s.slot e.station).base + e.control := Nat.not_lt.mpr inTable
  case absent =>
    exact checkPress_of_lost ((if_neg on).trans ((if_neg reaches).trans ((if_neg indexed).trans (if_pos absent))))
  case found =>
    have found : s.findBinding e = .ok ((s.slot e.station).base + e.control) :=
      (if_neg on).trans ((if_neg reaches).trans ((if_neg indexed).trans (if_neg (by simp [present]))))
    rw [checkPress_of_found found]
    generalize (s.slot e.station).base + e.control = i
    generalize s.binding i = b
    refine ⟨fun low => if_pos low, fun fits locked => ?locked, fun fits ⟨a, minimum, opens⟩ =>
      ⟨fun kind silent => ?silent, fun heard => ⟨fun untargeted => ?untargeted, fun notClear notPanic => ?targets⟩⟩⟩
    all_goals rw [if_neg (Nat.not_lt.mpr fits)]
    case locked => exact if_pos (zoneLocks_iff.mpr locked)
    all_goals
      have unlocked : ¬ s.zoneLocks (s.pressZone b) (s.slot e.station).authority = true := fun locked => by
        rcases zoneLocks_iff.mp locked with closed | ⟨c, other, below⟩
        · rw [minimum] at closed
          cases closed
        · rw [minimum] at other
          cases other
          omega
      rw [if_neg unlocked]
    case silent => exact if_pos ⟨kind, silent⟩
    all_goals rw [if_neg fun h => h.2 (heard h.1)]
    case untargeted =>
      have passes : s.checkTargets b (b.originator i) (s.targets b.target b.level) = none := by
        unfold State.checkTargets
        rcases untargeted with kind | kind <;> rw [kind] <;> rfl
      rw [passes]
    case targets =>
      rw [checkTargets_of_targeted (hasTarget_iff.mpr ⟨notClear, notPanic⟩)]
      generalize s.targets b.target b.level = targets
      refine ⟨fun none => ?_, fun some => ⟨fun recalls => ?_, fun calm full => ?_, fun calm room => ?_⟩⟩
      · rw [if_pos none, noCircuitCode_eq] <;> rfl
      all_goals rw [if_neg some]
      all_goals rw [← anyLiveOn_eq_false] at *
      · rw [if_pos (recalls_iff.mpr recalls)]
      all_goals rw [if_neg fun busy => calm (recalls_iff.mp busy)]
      · rw [if_pos]
        exact ⟨(placesHolds_iff (hasTarget_iff.mpr ⟨notClear, notPanic⟩)).mpr ⟨full.1, full.2.1⟩, full.2.2⟩
      · rw [if_neg]
        rintro ⟨places, exceeds⟩
        have creates := (placesHolds_iff (hasTarget_iff.mpr ⟨notClear, notPanic⟩)).mp places
        exact room ⟨creates.1, creates.2, exceeds⟩

end Sys2Proof.Machine
end

section
/-! The actions of accepted edges (R54 to R67): placements, ramp starts, releases and the switching-off of a TOGGLE. -/
namespace Sys2Proof.Machine

open State

/-! ## What a press hands over (R54) -/

/-- The zone of an accepted press is not CLOSED, so its hold is placed unparked (R46, R54). -/
theorem parks_of_unlocked {s : State} {zone authority : Nat} (unlocked : s.zoneLocks zone authority = false) :
    s.parks (some zone) = false := by
  show (s.zoneMinimum zone == .closed) = false
  rw [State.zoneLocks] at unlocked
  cases minimum : s.zoneMinimum zone with
  | closed =>
    rw [minimum] at unlocked
    cases unlocked
  | atLeast a => rfl

/-- The placement of an accepted press, in the words of R54. -/
theorem pressPlacement_eq {s : State} {e : PressEntry} {i : Nat} (accepted : s.checkPress e = .ok i) (kind : HoldKind) :
    s.pressPlacement e i (s.binding i) kind =
      { originator := match (s.binding i).target with
          | .preset p => .preset p
          | _ => .binding ((s.binding i).owner.getD i)
        fade := match (s.binding i).target with
          | .preset p => (s.preset p).fade
          | _ => (s.binding i).fade
        priority := (s.binding i).priority
        zone := some (match (s.binding i).target with
          | .preset p => (s.preset p).zone
          | _ => (s.binding i).zone)
        kind := kind
        lastStation := some e.station
        expiry := (s.binding i).expiry
        parked := false } := by
  obtain ⟨_, unlocked, _⟩ := checkPress_ok accepted
  rw [State.pressPlacement, parks_of_unlocked unlocked]
  rfl

/-- The placement of an accepted press on a target that is no preset (R62). -/
theorem pressPlacement_of_circuits {s : State} {e : PressEntry} {i : Nat} (accepted : s.checkPress e = .ok i) (kind : HoldKind)
    (noPreset : ∀ p, (s.binding i).target ≠ .preset p) :
    s.pressPlacement e i (s.binding i) kind =
      { originator := .binding ((s.binding i).owner.getD i), fade := (s.binding i).fade, priority := (s.binding i).priority,
        zone := some (s.binding i).zone, kind := kind, lastStation := some e.station, expiry := (s.binding i).expiry,
        parked := false } := by
  rw [pressPlacement_eq accepted]
  cases target : (s.binding i).target with
  | preset p => exact absurd target (noPreset p)
  | _ => rfl

/-- The frame of a press that changes the pool alone. -/
theorem recomputed_setHolds (s : State) (rest : List PressEntry) (pool : List Hold) :
    s.SameButPending (s.recomputeImages { s with queue := rest, holds := pool }) ∧
      s.recomputeImages { s with queue := rest, holds := pool } =
        { s with queue := rest, stations := (s.recomputeImages { s with queue := rest, holds := pool }).stations, holds := pool } :=
  ⟨sameButPending_of_live s fun _ => rfl, rfl⟩

/-- The action of an accepted press by the kind of its binding (R56 to R64): `State.performPress` with the kind as an argument. -/
def State.pressAction (s : State) (e : PressEntry) (i : Nat) (kind : BindingKind) : State :=
  match kind with
  | .latchOn => s.place (s.pressPlacement e i (s.binding i) .latch) (s.targets (s.binding i).target (s.binding i).level)
  | .latchOff => s.release (Hold.isOn ((s.binding i).originator i) (s.targets (s.binding i).target (s.binding i).level))
  | .toggle =>
    if s.anyLiveOn ((s.binding i).originator i) (s.targets (s.binding i).target (s.binding i).level) then
      s.toggleOff (s.pressPlacement e i (s.binding i) .latch) (s.targets (s.binding i).target (s.binding i).level)
    else s.place (s.pressPlacement e i (s.binding i) .latch) (s.targets (s.binding i).target (s.binding i).level)
  | .holdToRun =>
    s.place (s.pressPlacement e i (s.binding i) .momentary) (s.targets (s.binding i).target (s.binding i).level)
  | .raise =>
    s.startRamps (s.pressPlacement e i (s.binding i) .latch) .up (s.targets (s.binding i).target (s.binding i).level)
  | .lower =>
    s.startRamps (s.pressPlacement e i (s.binding i) .latch) .down (s.targets (s.binding i).target (s.binding i).level)
  | .stationClear => s.release (fun h => h.lastStation == some e.station)
  | .panic => s.enterPanic .panicBinding

theorem performPress_of_kind {s : State} {e : PressEntry} {i : Nat} {kind : BindingKind} (k : (s.binding i).kind = kind) :
    s.performPress e i = s.pressAction e i kind :=
  congrArg (s.pressAction e i) k

/-- Room for the holds that an accepted press creates (R51). -/
theorem room_of_checkPress {s : State} {e : PressEntry} {i : Nat} (accepted : s.checkPress e = .ok i)
    (places : placesHolds (s.binding i).kind (s.anyLiveOn ((s.binding i).originator i)
      (s.targets (s.binding i).target (s.binding i).level)) = true) (kind : HoldKind) :
    lacking s.holds (s.pressPlacement e i (s.binding i) kind).originator
      (s.targets (s.binding i).target (s.binding i).level) ≤ freeRecords s.holds := by
  obtain ⟨_, _, _, passes⟩ := checkPress_ok accepted
  exact room_of_checkTargets passes places

/-- Settles O39: the three kinds place with the values of R54. -/
theorem pressPlacesHolds : Obligations.PressPlacesHolds := by
  unfold Obligations.PressPlacesHolds
  intro s e rest i on idle queue press accepted
  simp only []
  intro kinds distinct
  rw [exec_pressEdge_ok on idle queue press accepted]
  have places : placesHolds (s.binding i).kind (s.anyLiveOn ((s.binding i).originator i)
      (s.targets (s.binding i).target (s.binding i).level)) = true := by
    rcases kinds with kind | kind | ⟨kind, off⟩
    · rw [kind]
      rfl
    · rw [kind]
      rfl
    · rw [kind, off]
      rfl
  have action : State.performPress { s with queue := rest } e i =
      { s with queue := rest, holds :=
        (s.place (s.pressPlacement e i (s.binding i) (if (s.binding i).kind = .holdToRun then .momentary else .latch))
          (s.targets (s.binding i).target (s.binding i).level)).holds } := by
    rcases kinds with kind | kind | ⟨kind, off⟩
    · rw [performPress_of_kind (s := { s with queue := rest }) kind, kind]
      rfl
    · rw [performPress_of_kind (s := { s with queue := rest }) kind, kind]
      rfl
    · rw [performPress_of_kind (s := { s with queue := rest }) kind, kind]
      exact if_neg (ne_true_of_eq_false off)
  rw [action]
  obtain ⟨same, frame⟩ := recomputed_setHolds s rest
    (s.place (s.pressPlacement e i (s.binding i) (if (s.binding i).kind = .holdToRun then .momentary else .latch))
      (s.targets (s.binding i).target (s.binding i).level)).holds
  refine ⟨_, rfl, ?_, same, frame⟩
  have placed := place_spec s
    (s.pressPlacement e i (s.binding i) (if (s.binding i).kind = .holdToRun then .momentary else .latch)) _ distinct
    (room_of_checkPress accepted places _)
  rw [pressPlacement_eq accepted] at placed ⊢
  exact placed

/-- Settles O41: RAISE and LOWER start a ramp with the binding's values. -/
theorem pressStartsRamps : Obligations.PressStartsRamps := by
  unfold Obligations.PressStartsRamps
  intro s e rest i on idle queue press accepted
  simp only []
  intro kinds noPreset distinct
  rw [exec_pressEdge_ok on idle queue press accepted]
  have places : placesHolds (s.binding i).kind (s.anyLiveOn ((s.binding i).originator i)
      (s.targets (s.binding i).target (s.binding i).level)) = true := by
    rcases kinds with kind | kind <;> rw [kind] <;> rfl
  have action : State.performPress { s with queue := rest } e i =
      { s with queue := rest, holds :=
        (s.startRamps (s.pressPlacement e i (s.binding i) .latch) (if (s.binding i).kind = .raise then .up else .down)
          (s.targets (s.binding i).target (s.binding i).level)).holds } := by
    rcases kinds with kind | kind
    · rw [performPress_of_kind (s := { s with queue := rest }) kind, kind]
      rfl
    · rw [performPress_of_kind (s := { s with queue := rest }) kind, kind]
      rfl
  rw [action]
  obtain ⟨same, frame⟩ := recomputed_setHolds s rest
    (s.startRamps (s.pressPlacement e i (s.binding i) .latch) (if (s.binding i).kind = .raise then .up else .down)
      (s.targets (s.binding i).target (s.binding i).level)).holds
  refine ⟨_, rfl, ?_, same, frame⟩
  have ramped := startRamps_spec s (s.pressPlacement e i (s.binding i) .latch)
    (if (s.binding i).kind = .raise then .up else .down) _ distinct (room_of_checkPress accepted places _)
  rw [pressPlacement_of_circuits accepted _ noPreset] at ramped ⊢
  exact ramped

/-! ## RELEASE edges (R65 to R67) -/

/-- One stop of a ramp, in the words of R82. -/
theorem stopRamps_holds (s : State) (o : Originator) (targets : List (Nat × Nat)) :
    (s.stopRamps o targets).holds = s.holds.map fun h =>
      if h.isOn o targets = true ∧ h.state = .ramping then
        { h with state := .steady, target := h.level, start := h.level, length := 0, elapsed := 0, ramp := none }
      else h := by
  refine congrArg (fun f => s.holds.map f) (funext fun h => ?_)
  by_cases selected : h.isOn o targets = true
  · rw [if_pos selected, Hold.stopped]
    exact if_congr ⟨fun ramping => ⟨selected, ramping⟩, fun both => both.2⟩ rfl rfl
  · rw [if_neg selected, if_neg fun both => selected both.1]

/-- Settles O42: what a RELEASE edge does by the kind of its binding. -/
theorem releaseEdges : Obligations.ReleaseEdges := by
  unfold Obligations.ReleaseEdges
  intro s e rest on idle queue release
  rw [exec_releaseEdge on, resolveNext_of_head idle queue release]
  have untouched : s.recomputeImages { s with queue := rest } = { s with queue := rest } := recomputeImages_same fun _ => rfl
  refine ⟨fun r lost => ?lost, fun i found => ?found⟩
  case lost =>
    have dropped : State.resolveRelease { s with queue := rest } e = { s with queue := rest } := by
      rw [State.resolveRelease, findBinding_queue, lost]
    rw [dropped, untouched]
  case found =>
    have action : State.resolveRelease { s with queue := rest } e = State.performRelease { s with queue := rest } i := by
      rw [State.resolveRelease, findBinding_queue, found]
    have binding : State.binding { s with queue := rest } i = s.binding i := rfl
    rw [action, State.performRelease, binding]
    simp only []
    refine ⟨fun kind => ?_, fun kind => ?_, fun notRun notRaise notLower => ?_⟩
    · rw [kind]
      obtain ⟨same, frame⟩ := recomputed_setHolds s rest
        (releaseWhere (Hold.isMomentaryTarget ((s.binding i).originator i)
          (s.targets (s.binding i).target (s.binding i).level)) s.holds)
      exact ⟨_, rfl, rfl, same, frame⟩
    · obtain ⟨same, frame⟩ := recomputed_setHolds s rest
        (s.stopRamps ((s.binding i).originator i) (s.targets (s.binding i).target (s.binding i).level)).holds
      have stopped := stopRamps_holds s ((s.binding i).originator i) (s.targets (s.binding i).target (s.binding i).level)
      rcases kind with kind | kind
      · rw [kind]
        exact ⟨_, rfl, stopped, same, frame⟩
      · rw [kind]
        exact ⟨_, rfl, stopped, same, frame⟩
    · cases kind : (s.binding i).kind with
      | holdToRun => exact absurd kind notRun
      | raise => exact absurd kind notRaise
      | lower => exact absurd kind notLower
      | _ => exact congrArg _ untouched

end Sys2Proof.Machine
end

section
/-! The presses that release (R58, R60, R63, R64): a switching-off TOGGLE, one target circuit's list at a time. -/
namespace Sys2Proof.Machine

open State

/-! ## The switching-off of a TOGGLE (R60) -/

/-- What a switching-off TOGGLE makes of one circuit's list of holds, when `target` is the circuit's target level (R60). -/
def toggledList (rq : Placement) (target : Nat) (list : List Hold) : List Hold :=
  if list.any (fun h => h.originator == rq.originator && h.isLive && h.inWarning) then
    match list.find? (fun h => h.originator == rq.originator) with
    | some h => list.filter (fun k => k.originator != rq.originator) ++ [h.placed rq target]
    | none => list
  else releaseWhere (fun h => h.originator == rq.originator) list

/-- A release keeps every hold on its circuit, so it acts on each circuit's list by itself. -/
theorem contributions_releaseWhere (p : Hold → Bool) (pool : List Hold) (c : Nat) :
    contributions (releaseWhere p pool) c = releaseWhere p (contributions pool c) := by
  rw [contributions, contributions, releaseWhere, releaseWhere, List.filter_filterMap, List.filterMap_filter]
  refine congrArg (fun f => pool.filterMap f) (funext fun h => ?_)
  have kept : ∀ k, (if h.isLive && p h then h.released else some h) = some k → k.circuit = h.circuit := by
    intro k out
    split at out
    · rw [Hold.released] at out
      split at out
      · cases out
      · cases out
        rfl
    · cases out
      rfl
  cases out : (if h.isLive && p h then h.released else some h) with
  | none => by_cases on : h.circuit = c <;> simp [on, Option.filter]
  | some k =>
    have circuit := kept k out
    by_cases on : h.circuit = c <;> simp [on, circuit, Option.filter]

theorem releaseWhere_of_none {p : Hold → Bool} {pool : List Hold} (untouched : ∀ h ∈ pool, p h = false) :
    releaseWhere p pool = pool := by
  rw [releaseWhere]
  conv_rhs => rw [← List.filterMap_some (l := pool)]
  refine List.filterMap_congr fun h mem => ?_
  rw [untouched h mem, Bool.and_false]
  rfl

theorem releaseWhere_congr {p q : Hold → Bool} {pool : List Hold} (same : ∀ h ∈ pool, p h = q h) :
    releaseWhere p pool = releaseWhere q pool :=
  List.filterMap_congr fun h mem => by rw [same h mem]

theorem any_warned_contributions (pool : List Hold) (c : Nat) (o : Originator) :
    (pool.any fun h => h.isOf c o && h.isLive && h.inWarning) =
      (contributions pool c).any fun h => h.originator == o && h.isLive && h.inWarning := by
  rw [contributions, List.any_filter]
  exact congrArg pool.any (funext fun h => by simp only [Hold.isOf, Bool.and_assoc])

theorem contributions_toggleOffOn (rq : Placement) (rule : MergeRule) (pool : List Hold) (x : Nat × Nat) :
    contributions (toggleOffOn rq rule pool x) x.1 = toggledList rq x.2 (contributions pool x.1) := by
  rw [toggleOffOn, toggledList, any_warned_contributions]
  by_cases warned :
    (contributions pool x.1).any (fun h => h.originator == rq.originator && h.isLive && h.inWarning) = true
  · rw [if_pos warned, if_pos warned, ← find?_isOf_contributions]
    cases found : pool.find? (Hold.isOf x.1 rq.originator) with
    | some h =>
      have circuit : h.circuit = x.1 := (isOf_iff.mp (List.find?_some found)).1
      have base : touchBase rq rule pool x.1 0 = h := by rw [touchBase, found]
      have same := contributions_touchOn_same (rq := rq) (rule := rule) (f := fun h => h.placed rq x.2) (pool := pool)
        (c := x.1) (slot := 0) (by rw [base]; exact circuit)
      rw [base] at same
      rw [touchOn_some found, same]
    | none =>
      obtain ⟨h, mem, is⟩ := List.any_eq_true.mp warned
      obtain ⟨mem, circuit⟩ := mem_contributions.mp mem
      have originator : h.originator = rq.originator := by
        simp only [Bool.and_eq_true, beq_iff_eq] at is
        exact is.1.1
      exact absurd (isOf_iff.mpr ⟨circuit, originator⟩) (List.find?_eq_none.mp found h mem)
  · rw [if_neg warned, if_neg warned, contributions_releaseWhere]
    refine releaseWhere_congr fun h mem => ?_
    rw [Hold.isOf, beq_iff_eq.mpr (mem_contributions.mp mem).2, Bool.true_and]

theorem contributions_toggleOffOn_elsewhere (rq : Placement) (rule : MergeRule) (pool : List Hold) (x : Nat × Nat) {d : Nat}
    (other : d ≠ x.1) : contributions (toggleOffOn rq rule pool x) d = contributions pool d := by
  rw [toggleOffOn]
  split
  · exact contributions_touchOn_elsewhere (rq.gives_placed x.2) other
  · rw [contributions_releaseWhere]
    refine releaseWhere_of_none fun h mem => ?_
    rw [Hold.isOf, (mem_contributions.mp mem).2, beq_eq_false_iff_ne.mpr other, Bool.false_and]

/-- A pass over distinct target circuits, one circuit's list at a time: what it makes of each list. -/
theorem contributions_foldl {step : List Hold → Nat × Nat → List Hold} {made : Nat × Nat → List Hold → List Hold}
    (on : ∀ pool x, contributions (step pool x) x.1 = made x (contributions pool x.1))
    (elsewhere : ∀ pool x d, d ≠ x.1 → contributions (step pool x) d = contributions pool d) (targets : List (Nat × Nat)) :
    ∀ pool, (targets.map Prod.fst).Nodup →
      (∀ x ∈ targets, contributions (targets.foldl step pool) x.1 = made x (contributions pool x.1)) ∧
      ∀ c, (∀ x ∈ targets, x.1 ≠ c) → contributions (targets.foldl step pool) c = contributions pool c := by
  induction targets with
  | nil => exact fun pool _ => ⟨fun x mem => (nomatch mem), fun c _ => rfl⟩
  | cons y ys ih =>
    intro pool distinct
    rw [List.map_cons, List.nodup_cons] at distinct
    obtain ⟨new, distinct⟩ := distinct
    obtain ⟨ihOn, ihElse⟩ := ih (step pool y) distinct
    refine ⟨fun x mem => ?_, fun c away => ?_⟩
    · rcases List.mem_cons.mp mem with rfl | mem
      · rw [List.foldl_cons, ihElse x.1 fun z hz same => new (same ▸ List.mem_map_of_mem hz), on]
      · rw [List.foldl_cons, ihOn x mem, elsewhere pool y x.1 fun same => new (same ▸ List.mem_map_of_mem mem)]
    · rw [List.foldl_cons, ihElse c fun z hz => away z (List.mem_cons_of_mem _ hz),
        elsewhere pool y c (away y List.mem_cons_self).symm]

/-- The warning of R60, as the obligation states it. -/
theorem any_warned_iff (o : Originator) (list : List Hold) :
    list.any (fun h => h.originator == o && h.isLive && h.inWarning) = true ↔
      ∃ h ∈ list, h.originator = o ∧ h.state ≠ .fadingOut ∧ h.expiry = some 1 := by
  simp only [List.any_eq_true, Bool.and_eq_true, beq_iff_eq, Hold.isLive, Hold.inWarning, bne_iff_ne, and_assoc]

theorem toggledList_of_warned {rq : Placement} {target : Nat} {list : List Hold}
    (warned : ∃ h ∈ list, h.originator = rq.originator ∧ h.state ≠ .fadingOut ∧ h.expiry = some 1) :
    ∃ h, list.find? (fun h => h.originator == rq.originator) = some h ∧
      toggledList rq target list = list.filter (fun k => k.originator != rq.originator) ++ [h.placed rq target] := by
  cases found : list.find? (fun h => h.originator == rq.originator) with
  | some h => exact ⟨h, rfl, by rw [toggledList, if_pos ((any_warned_iff _ _).mpr warned), found]⟩
  | none =>
    obtain ⟨h, mem, originator, _⟩ := warned
    exact absurd (beq_iff_eq.mpr originator) (List.find?_eq_none.mp found h mem)

theorem toggledList_of_unwarned {rq : Placement} {target : Nat} {list : List Hold}
    (unwarned : ¬ ∃ h ∈ list, h.originator = rq.originator ∧ h.state ≠ .fadingOut ∧ h.expiry = some 1) :
    toggledList rq target list = releaseWhere (fun h => h.originator == rq.originator) list :=
  if_neg fun warned => unwarned ((any_warned_iff _ _).mp warned)

/-- The hold that a placement leaves where the originator has one (R73). -/
theorem placedBy_of_found {s : State} {rq : Placement} {c target : Nat} {k : Hold}
    (found : s.holds.find? (Hold.isOf c rq.originator) = some k) :
    (k.placed rq target).PlacedBy rq c target (s.startLevel rq.originator c) := by
  have base : touchBase rq (s.attrs c).mergeRule s.holds c 0 = k := by rw [touchBase, found]
  have placed := placed_spec s rq c target 0
  rwa [base] at placed

/-! ## The releasing presses -/

/-- The placement of an accepted press, with the names of the model's own accessors: unparked (R54). -/
theorem pressPlacement_unparked {s : State} {e : PressEntry} {i : Nat} (accepted : s.checkPress e = .ok i) (kind : HoldKind) :
    s.pressPlacement e i (s.binding i) kind =
      { originator := (s.binding i).originator i, fade := s.pressFade (s.binding i), priority := (s.binding i).priority,
        zone := some (s.pressZone (s.binding i)), kind := kind, lastStation := some e.station,
        expiry := (s.binding i).expiry, parked := false } := by
  obtain ⟨_, unlocked, _⟩ := checkPress_ok accepted
  rw [State.pressPlacement, parks_of_unlocked unlocked]

/-- A PANIC press, in PANIC and in every other mode (R64). -/
theorem enterPanic_recomputed (s : State) (rest : List PressEntry) :
    let t := s.recomputeImages (State.enterPanic { s with queue := rest } .panicBinding)
    t.mode = .panic ∧ (s.mode ≠ .panic → s.ModeChanged t .panic .panicBinding) ∧
      (s.mode = .panic → t.holds = s.holds ∧ t.events = s.events ∧ s.SameButPending t) ∧
      t = { s with queue := rest, stations := t.stations, holds := t.holds, mode := t.mode, events := t.events } := by
  intro t
  by_cases panic : s.mode = .panic
  · have stays : t = s.recomputeImages { s with queue := rest } :=
      congrArg s.recomputeImages (enterPanic_of_panic (s := { s with queue := rest }) panic _)
    rw [stays]
    exact ⟨panic, fun calm => absurd panic calm, fun _ => ⟨rfl, rfl, sameButPending_of_live s fun _ => rfl⟩, rfl⟩
  · have enters : t = s.recomputeImages (State.changeMode { s with queue := rest } .panic .panicBinding) :=
      congrArg s.recomputeImages (enterPanic_of_calm (s := { s with queue := rest }) panic _)
    rw [enters]
    exact ⟨rfl, fun _ => ⟨rfl, rfl, rfl, sameButPending_of_live s fun _ => rfl⟩, fun calm => absurd calm panic, rfl⟩

/-- Settles O40: LATCH_OFF, STATION_CLEAR and PANIC by their actions, and a switching-off TOGGLE by its lists. -/
theorem pressReleasesHolds : Obligations.PressReleasesHolds := by
  unfold Obligations.PressReleasesHolds
  intro s e rest i on idle queue press accepted
  simp only []
  rw [exec_pressEdge_ok on idle queue press accepted]
  refine ⟨fun kind => ?latchOff, fun kind => ?stationClear, fun kind => ?panic, fun kind off distinct => ?toggle⟩
  case latchOff =>
    rw [performPress_of_kind (s := { s with queue := rest }) kind]
    obtain ⟨same, frame⟩ := recomputed_setHolds s rest
      (releaseWhere (Hold.isOn ((s.binding i).originator i) (s.targets (s.binding i).target (s.binding i).level)) s.holds)
    exact ⟨_, rfl, rfl, same, frame⟩
  case stationClear =>
    rw [performPress_of_kind (s := { s with queue := rest }) kind]
    obtain ⟨same, frame⟩ := recomputed_setHolds s rest (releaseWhere (fun h => h.lastStation == some e.station) s.holds)
    exact ⟨_, rfl, rfl, same, frame⟩
  case panic =>
    rw [performPress_of_kind (s := { s with queue := rest }) kind]
    exact ⟨_, rfl, enterPanic_recomputed s rest⟩
  case toggle =>
    have action : State.performPress { s with queue := rest } e i =
        { s with queue := rest, holds :=
          (s.toggleOff (s.pressPlacement e i (s.binding i) .latch)
            (s.targets (s.binding i).target (s.binding i).level)).holds } := by
      rw [performPress_of_kind (s := { s with queue := rest }) kind]
      exact if_pos off
    rw [action, pressPlacement_unparked accepted]
    generalize s.targets (s.binding i).target (s.binding i).level = targets at *
    generalize placement : Placement.mk _ _ _ _ _ _ _ _ = rq
    have originator : rq.originator = (s.binding i).originator i := by rw [← placement]
    obtain ⟨same, frame⟩ := recomputed_setHolds s rest (s.toggleOff rq targets).holds
    obtain ⟨made, elsewhere⟩ := contributions_foldl
      (fun pool x => contributions_toggleOffOn rq (s.attrs x.1).mergeRule pool x)
      (fun pool x d => contributions_toggleOffOn_elsewhere rq (s.attrs x.1).mergeRule pool x) targets s.holds distinct
    refine ⟨_, rfl, fun x mem => ?_, elsewhere, same, frame⟩
    have on := made x mem
    rw [← originator]
    by_cases warned : ∃ h ∈ contributions s.holds x.1,
        h.originator = rq.originator ∧ h.state ≠ .fadingOut ∧ h.expiry = some 1
    · rw [if_pos warned]
      obtain ⟨k, found, list⟩ := toggledList_of_warned (target := x.2) warned
      rw [← find?_isOf_contributions] at found
      refine ⟨k.placed rq x.2, on.trans list, placedBy_of_found found, fun j first => ?_⟩
      rw [found] at first
      cases first
      rfl
    · rw [if_neg warned]
      exact on.trans (toggledList_of_unwarned warned)

end Sys2Proof.Machine
end

section
/-! FADE_STEP (R75, R76, R78, R81): one step of one hold by its state, and the arithmetic of a fade. -/
namespace Sys2Proof.Machine

open State

/-! ## One step of one hold -/

theorem Hold.stepped_of_resting {h : Hold} (resting : h.parked = true ∨ h.state = .steady) : h.stepped = some h := by
  rcases resting with parked | steady
  · exact if_pos parked
  · rw [Hold.stepped, steady]
    exact ite_self _

theorem Hold.stepped_of_fading {h : Hold} (counted : h.parked = false) (fading : h.state = .fading) :
    h.stepped =
      if h.length ≤ h.elapsed + 1 then some { h with elapsed := h.elapsed + 1, level := h.target, state := .steady }
      else some { h with elapsed := h.elapsed + 1, level := fadeLevel h.start h.target h.length (h.elapsed + 1) } := by
  rw [Hold.stepped, if_neg (ne_true_of_eq_false counted), fading]

theorem Hold.stepped_of_fadingOut {h : Hold} (counted : h.parked = false) (fadingOut : h.state = .fadingOut) :
    h.stepped =
      if h.length ≤ h.elapsed + 1 then none
      else some { h with elapsed := h.elapsed + 1, level := fadeLevel h.start h.target h.length (h.elapsed + 1) } := by
  rw [Hold.stepped, if_neg (ne_true_of_eq_false counted), fadingOut]

theorem Hold.stepped_of_ramping {h : Hold} {r : Ramp} (counted : h.parked = false) (ramping : h.state = .ramping)
    (ramp : h.ramp = some r) :
    h.stepped = some { h with ramp := some (r.advance h.level).1, level := (r.advance h.level).2 } := by
  rw [Hold.stepped, if_neg (ne_true_of_eq_false counted), ramping]
  simp only [ramp]

theorem Ramp.advance_up {r : Ramp} (up : r.direction = .up) (level : Nat) :
    r.advance level = if 1000 ≤ level then (r, level)
      else ({ r with elapsed := r.elapsed + 1 }, min 1000 (r.start + 1000 * (r.elapsed + 1) / (4 * r.travel))) := by
  rw [Ramp.advance, up]

theorem Ramp.advance_down {r : Ramp} (down : r.direction = .down) (level : Nat) :
    r.advance level = if level = 0 then (r, level)
      else ({ r with elapsed := r.elapsed + 1 }, r.start - 1000 * (r.elapsed + 1) / (4 * r.travel)) := by
  rw [Ramp.advance, down]

/-- A hold whose ramp and level are written with what it has is unchanged. -/
theorem Hold.eta_ramp {h : Hold} {r : Ramp} (ramp : h.ramp = some r) : { h with ramp := some r, level := h.level } = h := by
  rw [← ramp]

/-! ## The arithmetic of a fade (R76) -/

/-- A positive way is not yet gone while steps remain, and is gone at the last. -/
theorem way_gone_iff {way length t : Nat} (moves : 0 < way) (long : 0 < length) (within : t ≤ length) :
    way * t / length = way ↔ t = length := by
  refine ⟨fun gone => Nat.le_antisymm within ?_, fun last => ?_⟩
  · by_contra short
    have fewer : way * t < way * length := Nat.mul_lt_mul_of_pos_left (Nat.lt_of_not_le short) moves
    exact absurd gone (Nat.ne_of_lt (Nat.div_lt_of_lt_mul (by rwa [Nat.mul_comm length])))
  · rw [last]
    exact Nat.mul_div_cancel _ long

theorem fadeLevel_eq_target_iff {start target length t : Nat} (long : 0 < length) (within : t ≤ length)
    (moves : start ≠ target) : fadeLevel start target length t = target ↔ t = length := by
  rcases Nat.lt_or_gt_of_ne moves with rising | falling
  · have gone := way_gone_iff (way := target - start) (by omega) long within
    have part := way_le (way := target - start) within
    rw [fadeLevel_rising (Nat.le_of_lt rising), ← gone]
    omega
  · have gone := way_gone_iff (way := start - target) (by omega) long within
    have part := way_le (way := start - target) within
    rw [fadeLevel_falling (Nat.le_of_lt falling), ← gone]
    omega

/-- Settles O43, by the four states of a hold and the two directions of a fade. -/
theorem fadeStepAdvancesHolds : Obligations.FadeStepAdvancesHolds := by
  unfold Obligations.FadeStepAdvancesHolds
  refine ⟨fun s on => ?event, fun h => Hold.stepped_of_resting, fun h counted fades => ?fades,
    fun h r counted ramping ramp => ⟨fun up => ?up, fun down => ?down⟩, fun start target length t long within => ?levels⟩
  case event =>
    rw [exec_fadeStep on]
    exact ⟨_, rfl, rfl, sameButPending_of_live s fun _ => rfl, rfl⟩
  case fades =>
    rcases fades with fading | fadingOut
    · rw [Hold.stepped_of_fading counted fading]
      exact ⟨fun short => if_neg (Nat.not_le.mpr short), fun last => by rw [if_pos last, if_pos fading]⟩
    · have leaves : h.state ≠ .fading := by
        rw [fadingOut]
        exact nofun
      rw [Hold.stepped_of_fadingOut counted fadingOut]
      exact ⟨fun short => if_neg (Nat.not_le.mpr short), fun last => by rw [if_pos last, if_neg leaves]⟩
  case up =>
    rw [Hold.stepped_of_ramping counted ramping ramp, Ramp.advance_up up]
    by_cases limit : 1000 ≤ h.level
    · simp only [if_pos limit, Hold.eta_ramp ramp]
    · simp only [if_neg limit]
  case down =>
    rw [Hold.stepped_of_ramping counted ramping ramp, Ramp.advance_down down]
    by_cases limit : h.level = 0
    · simp only [if_pos limit, Hold.eta_ramp ramp]
    · simp only [if_neg limit]
  case levels =>
    obtain ⟨low, high⟩ := fadeLevel_between start target within
    exact ⟨fun rising => fadeLevel_rising rising length t, fun falling => fadeLevel_falling falling length t, low, high,
      fadeLevel_eq_target_iff long within⟩

end Sys2Proof.Machine
end

section
/-! LEVELS frames and misses of a rack (R157, R158, R160, R162). -/
namespace Sys2Proof.Machine

open State

variable {s : State}

/-! ## A rack rewritten -/

theorem rack_setRack_same {r : Nat} (fits : r < 4) (v : Rack) : (s.setRack r v).rack r = v := by
  rw [rack_setRack, if_pos ⟨rfl, fits⟩]

theorem rack_setRack_other {r q : Nat} (other : q ≠ r) (v : Rack) : (s.setRack r v).rack q = s.rack q := by
  rw [rack_setRack, if_neg fun same => other same.1.symm]

/-! ## A miss (R162) -/

theorem rackMissed_of_lost {r : Nat} (lost : (s.rack r).state = .lost) :
    s.rackMissed r = s.setRack r { s.rack r with missCount := min 8 ((s.rack r).missCount + 1) } := by
  rw [State.rackMissed]
  exact if_pos lost

theorem rackMissed_of_eighth {r : Nat} (heard : (s.rack r).state ≠ .lost) (eighth : 7 ≤ (s.rack r).missCount) :
    s.rackMissed r = (s.setRack r { s.rack r with state := .lost, missCount := 8 }).latchRack r .lost := by
  rw [State.rackMissed]
  exact (if_neg heard).trans (if_pos eighth)

theorem rackMissed_of_fewer {r : Nat} (heard : (s.rack r).state ≠ .lost) (fewer : (s.rack r).missCount < 7) :
    s.rackMissed r = s.setRack r { s.rack r with missCount := (s.rack r).missCount + 1 } := by
  rw [State.rackMissed]
  exact (if_neg heard).trans (if_neg (Nat.not_le.mpr fewer))

/-- What a miss leaves of everything but the racks and the events. -/
theorem rackMissed_eq (r : Nat) :
    s.rackMissed r = { s with racks := (s.rackMissed r).racks, events := (s.rackMissed r).events } := by
  rw [State.rackMissed]
  split
  · rfl
  · split <;> rfl

theorem rackMissed_other {r q : Nat} (other : q ≠ r) : (s.rackMissed r).rack q = s.rack q := by
  rw [State.rackMissed]
  split
  · exact rack_setRack_other other _
  · split
    · exact rack_setRack_other other _
    · exact rack_setRack_other other _

/-- The end of a transaction with no valid reply of its rack is a miss (R160). -/
theorem endTransaction_none_of_flying {r : Nat} (flying : s.rackInFlight = some r) :
    s.endTransaction none = State.rackMissed { s with rackInFlight := none } r := by
  rw [State.endTransaction, flying]

theorem endTransaction_of_landed (landed : s.rackInFlight = none) (reply : Option (Nat × List FaultEntry)) :
    s.endTransaction reply = s := by
  rw [State.endTransaction, landed]

/-- Settles O45, by the model's frame, and by the three cases of a miss. -/
theorem rackFramesAndMisses : Obligations.RackFramesAndMisses := by
  unfold Obligations.RackFramesAndMisses
  refine ⟨fun s rack on => ?frame, fun s r on flying fits => ?miss, fun s on landed => ?ignored⟩
  case frame =>
    rw [exec_refreshTimer on]
    have fits : rack.toNat < 4 := rack.isLt
    have kept : State.rack { s.setRack rack.toNat { s.rack rack.toNat with lastSent := s.rackCodes rack.toNat } with
        rackInFlight := some rack.toNat
        timers := { s.timers with
          refresh := s.timers.refresh.set rack.toNat (s.timers.refresh.get 0 rack.toNat + Config.refreshTicks) } } rack.toNat =
        { s.rack rack.toNat with lastSent := s.rackCodes rack.toNat } := rack_setRack_same fits _
    refine ⟨_, rfl, fun k low => ?_, by rw [kept], by rw [kept], fun r other => rack_setRack_other other _, rfl,
      fun r low => ?_, rfl⟩
    · rw [kept]
      exact (Table.get_tabulate _ _ _).trans (if_pos low)
    · refine (Table.get_set _ _ _ _ _).trans ?_
      by_cases same : r = rack.toNat
      · rw [if_pos ⟨same.symm, low⟩, if_pos same, same, Config.refreshTicks]
      · rw [if_neg fun both => same both.1.symm, if_neg same]
        rfl
  case miss =>
    rw [exec_rackMiss on, endTransaction_none_of_flying flying]
    refine ⟨_, rfl, fun q other => rackMissed_other (s := { s with rackInFlight := none }) other, fun heard fewer => ?_,
      fun heard eighth => ?_, fun lost => ?_, rackMissed_eq (s := { s with rackInFlight := none }) r⟩
    · rw [rackMissed_of_fewer (s := { s with rackInFlight := none }) heard fewer]
      exact ⟨rack_setRack_same fits _, rfl⟩
    · rw [rackMissed_of_eighth (s := { s with rackInFlight := none }) heard eighth]
      exact ⟨rack_setRack_same fits _, rfl⟩
    · rw [rackMissed_of_lost (s := { s with rackInFlight := none }) lost]
      exact ⟨rack_setRack_same fits _, rfl⟩
  case ignored => rw [exec_rackMiss on, endTransaction_of_landed landed]

end Sys2Proof.Machine
end

section
/-! Fault counting (R160, R161, R163 to R165): the slots a reply counts, and what counting a list of circuits leaves. -/
namespace Sys2Proof.Machine

open State

/-! ## The slots that a reply counts (R163) -/

/-- The slots that a reply counts, in its order: each once, and none whose last-sent code is 0. -/
def countedSlots (codes : Table Nat 96) : List FaultEntry → List Nat → List Nat
  | [], _ => []
  | e :: es, seen =>
    if codes.get 0 e.slot.toNat = 0 ∨ e.slot.toNat ∈ seen then countedSlots codes es seen
    else e.slot.toNat :: countedSlots codes es (e.slot.toNat :: seen)

theorem foldl_countEntry (codes : Table Nat 96) (r : Nat) (entries : List FaultEntry) :
    ∀ (s : State) (seen : List Nat), (entries.foldl (countEntry codes r) (s, seen)).1 =
      ((countedSlots codes entries seen).map (96 * r + ·)).foldl State.countFault s := by
  induction entries with
  | nil => exact fun _ _ => rfl
  | cons e es ih =>
    intro s seen
    rw [List.foldl_cons, countEntry, countedSlots]
    simp only []
    by_cases ignored : codes.get 0 e.slot.toNat = 0 ∨ e.slot.toNat ∈ seen
    · rw [if_pos ignored, if_pos ignored]
      exact ih s seen
    · rw [if_neg ignored, if_neg ignored]
      exact ih _ _

theorem mem_countedSlots {codes : Table Nat 96} {k : Nat} (entries : List FaultEntry) :
    ∀ seen : List Nat, k ∈ countedSlots codes entries seen ↔
      k ∉ seen ∧ codes.get 0 k ≠ 0 ∧ ∃ e ∈ entries, e.slot.toNat = k := by
  induction entries with
  | nil => simp [countedSlots]
  | cons e es ih =>
    intro seen
    rw [countedSlots]
    by_cases ignored : codes.get 0 e.slot.toNat = 0 ∨ e.slot.toNat ∈ seen
    · rw [if_pos ignored, ih]
      refine and_congr_right fun new => and_congr_right fun lit => ?_
      rw [List.exists_mem_cons_iff]
      refine ⟨Or.inr, fun named => named.resolve_left ?_⟩
      rintro rfl
      exact ignored.elim lit new
    · rw [not_or] at ignored
      obtain ⟨lit, new⟩ := ignored
      rw [if_neg (not_or.mpr ⟨lit, new⟩), List.mem_cons, ih, List.exists_mem_cons_iff, List.mem_cons, not_or]
      constructor
      · rintro (rfl | ⟨⟨_, unseen⟩, litK, named⟩)
        · exact ⟨new, lit, Or.inl rfl⟩
        · exact ⟨unseen, litK, Or.inr named⟩
      · rintro ⟨unseen, litK, named⟩
        by_cases same : k = e.slot.toNat
        · exact Or.inl same
        · exact Or.inr ⟨⟨same, unseen⟩, litK, named.resolve_left fun is => same is.symm⟩

theorem countedSlots_nodup (codes : Table Nat 96) (entries : List FaultEntry) :
    ∀ seen : List Nat, (countedSlots codes entries seen).Nodup := by
  induction entries with
  | nil => exact fun _ => List.nodup_nil
  | cons e es ih =>
    intro seen
    rw [countedSlots]
    split
    · exact ih seen
    · refine List.nodup_cons.mpr ⟨fun again => ?_, ih _⟩
      exact ((mem_countedSlots es _).mp again).1 List.mem_cons_self

/-- The slots of a reply in two parts: the second part has the slots of the first as counted. -/
theorem countedSlots_append (codes : Table Nat 96) (before after : List FaultEntry) :
    ∀ seen : List Nat, ∃ later : List Nat,
      countedSlots codes (before ++ after) seen = countedSlots codes before seen ++ countedSlots codes after later ∧
      ∀ k, k ∈ later ↔ k ∈ seen ∨ k ∈ countedSlots codes before seen := by
  induction before with
  | nil => exact fun seen => ⟨seen, rfl, fun k => by simp [countedSlots]⟩
  | cons e es ih =>
    intro seen
    rw [List.cons_append, countedSlots, countedSlots]
    by_cases ignored : codes.get 0 e.slot.toNat = 0 ∨ e.slot.toNat ∈ seen
    · rw [if_pos ignored, if_pos ignored]
      exact ih seen
    · rw [if_neg ignored, if_neg ignored]
      obtain ⟨later, parts, members⟩ := ih (e.slot.toNat :: seen)
      refine ⟨later, by rw [parts, List.cons_append], fun k => ?_⟩
      rw [members, List.mem_cons, List.mem_cons]
      tauto

/-! ## One counted fault (R163 to R165) -/

section
variable {s : State}

/-- Counting the circuit retires it (R165). -/
def State.faultRetires (s : State) (c : Nat) : Prop :=
  (s.attrs c).egress = false ∧ (s.attrs c).retired = false ∧ 6 ≤ (s.circuit c).faultCount

/-- Counting the circuit latches a CIRCUIT event (R164, R165). -/
def State.faultReports (s : State) (c : Nat) : Prop :=
  s.faultRetires c ∨ (s.attrs c).egress = true ∧ (s.circuit c).faultCount = 6

/-- The circuit's live fields with one fault counted (R163). -/
def CircuitLive.faulted (v : CircuitLive) : CircuitLive :=
  { v with faultCount := min 7 (v.faultCount + 1), reported := true }

/-- The circuit counted, before what its count brings. -/
def State.faultNoted (s : State) (c : Nat) : State := s.setCircuit c (s.circuit c).faulted

theorem countFault_of_retires {c : Nat} (retires : s.faultRetires c) : s.countFault c = (s.faultNoted c).retire c := by
  obtain ⟨inner, serving, full⟩ := retires
  rw [State.countFault]
  exact (if_neg (ne_true_of_eq_false inner)).trans (if_pos ⟨serving, full⟩)

theorem countFault_of_egress {c : Nat} (egress : (s.attrs c).egress = true) :
    s.countFault c = if (s.circuit c).faultCount = 6 then (s.faultNoted c).latchCircuit c else s.faultNoted c := by
  rw [State.countFault]
  exact if_pos egress

theorem countFault_of_serving {c : Nat} (inner : (s.attrs c).egress = false) (serves : ¬ s.faultRetires c) :
    s.countFault c = s.faultNoted c := by
  rw [State.countFault]
  exact (if_neg (ne_true_of_eq_false inner)).trans (if_neg fun full => serves ⟨inner, full⟩)

/-- A counted fault that does not retire its circuit: the event it latches is the only other change. -/
theorem countFault_of_kept {c : Nat} (serves : ¬ s.faultRetires c) :
    s.faultReports c ∧ s.countFault c = (s.faultNoted c).latchCircuit c ∨
      ¬ s.faultReports c ∧ s.countFault c = s.faultNoted c := by
  cases egress : (s.attrs c).egress with
  | true =>
    rw [countFault_of_egress egress]
    by_cases full : (s.circuit c).faultCount = 6
    · exact Or.inl ⟨Or.inr ⟨egress, full⟩, if_pos full⟩
    · exact Or.inr ⟨fun reports => reports.elim serves fun both => full both.2, if_neg full⟩
  | false =>
    refine Or.inr ⟨fun reports => reports.elim serves fun both => ?_, countFault_of_serving egress serves⟩
    rw [egress] at both
    cases both.1

/-- What counting faults on a list of circuits leaves (R163 to R165). -/
structure State.FaultsCounted (s : State) (circuits : List Nat) (t : State) : Prop where
  counted : ∀ c ∈ circuits, t.circuit c = (s.circuit c).faulted
  uncounted : ∀ c, c ∉ circuits → t.circuit c = s.circuit c
  retired : ∀ c ∈ circuits, s.faultRetires c →
    t.attrs c = { s.attrs c with retired := true } ∧ contributions t.holds c = []
  kept : ∀ c, ¬ (c ∈ circuits ∧ s.faultRetires c) →
    t.attrs c = s.attrs c ∧ contributions t.holds c = contributions s.holds c
  flag : t.events.flags.circuit = true ↔ s.events.flags.circuit = true ∨ ∃ c ∈ circuits, s.faultReports c
  quiet : (∀ c ∈ circuits, ¬ s.faultReports c) → t.events.details.circuit = s.events.details.circuit
  last : ∀ before c after, circuits = before ++ c :: after → s.faultReports c → (∀ d ∈ after, ¬ s.faultReports d) →
    t.events.details.circuit = c
  events : t.events =
    { flags := { s.events.flags with circuit := t.events.flags.circuit }
      details := { s.events.details with circuit := t.events.details.circuit } }
  frame : t = { s with config := { s.config with circuits := t.config.circuits }, circuits := t.circuits, holds := t.holds,
                       events := t.events }

theorem contributions_removed_other (pool : List Hold) {c d : Nat} (other : d ≠ c) :
    contributions (pool.filter fun h => h.circuit != c) d = contributions pool d := by
  rw [contributions, contributions, List.filter_filter]
  refine List.filter_congr fun h _ => ?_
  by_cases on : h.circuit = d <;> simp [on, other]

theorem circuit_faultNoted {c : Nat} (fits : c < 384) (d : Nat) :
    (s.faultNoted c).circuit d = if d = c then (s.circuit c).faulted else s.circuit d :=
  (s.circuit_setCircuit c d _).trans (ite_record fits d _ _)

theorem faultsCounted_nil : s.FaultsCounted [] s where
  counted := nofun
  uncounted := fun _ _ => rfl
  retired := nofun
  kept := fun _ _ => ⟨rfl, rfl⟩
  flag := by simp
  quiet := fun _ => rfl
  last := fun before c after parts => by simp at parts
  events := rfl
  frame := rfl

/-- One counted fault. -/
theorem faultsCounted_one {c : Nat} (fits : c < 384) : s.FaultsCounted [c] (s.countFault c) := by
  have circuit := circuit_faultNoted (s := s) fits
  have singleton : ∀ before d after, [c] = before ++ d :: after → d = c := by
    intro before d after parts
    have mem : d ∈ [c] := parts ▸ List.mem_append_right _ List.mem_cons_self
    exact List.mem_singleton.mp mem
  by_cases retires : s.faultRetires c
  · rw [countFault_of_retires retires]
    refine ⟨fun d mem => ?_, fun d out => ?_, fun d mem _ => ?_, fun d spared => ?_, ?_, fun quiet => ?_,
      fun before d after parts _ _ => (singleton before d after parts).symm, rfl, rfl⟩
    · rw [List.mem_singleton.mp mem]
      exact (circuit c).trans (if_pos rfl)
    · exact (circuit d).trans (if_neg fun same => out (List.mem_singleton.mpr same))
    · rw [List.mem_singleton.mp mem]
      exact ⟨(attrs_retire (s.faultNoted c) (Nat.le_of_lt_succ fits) c).trans (if_pos rfl), contributions_removed _ c⟩
    · have other : d ≠ c := fun same => spared ⟨List.mem_singleton.mpr same, same ▸ retires⟩
      exact ⟨(attrs_retire (s.faultNoted c) (Nat.le_of_lt_succ fits) d).trans (if_neg other),
        contributions_removed_other _ other⟩
    · exact iff_of_true rfl (Or.inr ⟨c, List.mem_singleton_self c, Or.inl retires⟩)
    · exact absurd (Or.inl retires) (quiet c (List.mem_singleton_self c))
  · have spared : ∀ d ∈ [c], ¬ s.faultRetires d := by simpa using retires
    rcases countFault_of_kept retires with ⟨reports, counted⟩ | ⟨silent, counted⟩
    · rw [counted]
      refine ⟨fun d mem => ?_, fun d out => ?_, fun d mem retires => absurd retires (spared d mem), fun d _ => ⟨rfl, rfl⟩, ?_,
        fun quiet => ?_, fun before d after parts _ _ => (singleton before d after parts).symm, rfl, rfl⟩
      · rw [List.mem_singleton.mp mem]
        exact (circuit c).trans (if_pos rfl)
      · exact (circuit d).trans (if_neg fun same => out (List.mem_singleton.mpr same))
      · exact iff_of_true rfl (Or.inr ⟨c, List.mem_singleton_self c, reports⟩)
      · exact absurd reports (quiet c (List.mem_singleton_self c))
    · rw [counted]
      refine ⟨fun d mem => ?_, fun d out => ?_, fun d mem retires => absurd retires (spared d mem), fun d _ => ⟨rfl, rfl⟩, ?_,
        fun quiet => rfl, fun before d after parts reports _ => ?_, rfl, rfl⟩
      · rw [List.mem_singleton.mp mem]
        exact (circuit c).trans (if_pos rfl)
      · exact (circuit d).trans (if_neg fun same => out (List.mem_singleton.mpr same))
      · refine ⟨Or.inl, fun either => either.resolve_right ?_⟩
        rintro ⟨d, mem, reports⟩
        exact silent (List.mem_singleton.mp mem ▸ reports)
      · exact absurd (singleton before d after parts ▸ reports) silent

/-- Circuits counted one list after another. -/
theorem State.FaultsCounted.cons {c : Nat} {rest : List Nat} {t u : State} (new : c ∉ rest) (one : s.FaultsCounted [c] t)
    (others : t.FaultsCounted rest u) : s.FaultsCounted (c :: rest) u := by
  have away : ∀ d ∈ rest, d ≠ c := fun d mem same => new (same ▸ mem)
  have sameCircuit : ∀ d ∈ rest, t.circuit d = s.circuit d := fun d mem =>
    one.uncounted d fun is => away d mem (List.mem_singleton.mp is)
  have sameKept : ∀ d, d ≠ c → t.attrs d = s.attrs d ∧ contributions t.holds d = contributions s.holds d := fun d other =>
    one.kept d fun both => other (List.mem_singleton.mp both.1)
  have sameRetires : ∀ d ∈ rest, (t.faultRetires d ↔ s.faultRetires d) := fun d mem => by
    rw [State.faultRetires, State.faultRetires, sameCircuit d mem, (sameKept d (away d mem)).1]
  have sameReports : ∀ d ∈ rest, (t.faultReports d ↔ s.faultReports d) := fun d mem => by
    rw [State.faultReports, State.faultReports, sameRetires d mem, sameCircuit d mem, (sameKept d (away d mem)).1]
  refine ⟨fun d mem => ?_, fun d out => ?_, fun d mem retires => ?_, fun d spared => ?_, ?_, fun quiet => ?_,
    fun before d after parts reports silent => ?_, ?_, ?_⟩
  · rcases List.mem_cons.mp mem with rfl | mem
    · rw [others.uncounted d new]
      exact one.counted d (List.mem_singleton_self d)
    · rw [others.counted d mem, sameCircuit d mem]
  · rw [List.mem_cons, not_or] at out
    rw [others.uncounted d out.2, one.uncounted d fun is => out.1 (List.mem_singleton.mp is)]
  · rcases List.mem_cons.mp mem with rfl | mem
    · obtain ⟨attrs, holds⟩ := others.kept d fun both => new both.1
      rw [attrs, holds]
      exact one.retired d (List.mem_singleton_self d) retires
    · obtain ⟨attrs, holds⟩ := others.retired d mem ((sameRetires d mem).mpr retires)
      rw [attrs, holds, (sameKept d (away d mem)).1]
      exact ⟨rfl, rfl⟩
  · obtain ⟨attrs, holds⟩ := others.kept d fun both => spared ⟨List.mem_cons_of_mem _ both.1, (sameRetires d both.1).mp both.2⟩
    rw [attrs, holds]
    exact one.kept d fun both => spared ⟨List.mem_singleton.mp both.1 ▸ List.mem_cons_self, both.2⟩
  · have first : (∃ d ∈ [c], s.faultReports d) ↔ s.faultReports c := by simp
    have later : (∃ d ∈ rest, t.faultReports d) ↔ ∃ d ∈ rest, s.faultReports d :=
      exists_congr fun d => and_congr_right fun mem => sameReports d mem
    rw [others.flag, one.flag, first, later, List.exists_mem_cons_iff, or_assoc]
  · rw [others.quiet fun d mem reports => quiet d (List.mem_cons_of_mem _ mem) ((sameReports d mem).mp reports)]
    exact one.quiet fun d mem => quiet d (List.mem_singleton.mp mem ▸ List.mem_cons_self)
  · cases before with
    | nil =>
      obtain ⟨rfl, rfl⟩ := List.cons.inj parts
      rw [others.quiet fun x mem reports => silent x mem ((sameReports x mem).mp reports)]
      exact one.last [] c [] rfl reports nofun
    | cons first before =>
      obtain ⟨_, rfl⟩ := List.cons.inj parts
      have mem : ∀ x ∈ d :: after, x ∈ before ++ d :: after := fun x mem => List.mem_append_right _ mem
      exact others.last before d after rfl ((sameReports d (mem d List.mem_cons_self)).mpr reports) fun x hx reports =>
        silent x hx ((sameReports x (mem x (List.mem_cons_of_mem _ hx))).mp reports)
  · exact others.events.trans (by rw [one.events])
  · exact others.frame.trans (by rw [one.frame])

theorem faultsCounted_foldl (circuits : List Nat) :
    ∀ s : State, circuits.Nodup → (∀ c ∈ circuits, c < 384) → s.FaultsCounted circuits (circuits.foldl State.countFault s) := by
  induction circuits with
  | nil => exact fun s _ _ => faultsCounted_nil
  | cons c rest ih =>
    intro s distinct fits
    obtain ⟨new, distinct⟩ := List.nodup_cons.mp distinct
    exact (faultsCounted_one (fits c List.mem_cons_self)).cons new
      (ih _ distinct fun d mem => fits d (List.mem_cons_of_mem _ mem))

end

end Sys2Proof.Machine
end

section
/-! STATUS_REPLY (R160, R161, R163 to R165): the end of a transaction by its reply. -/
namespace Sys2Proof.Machine

open State

variable {s : State} {rack : BitVec 2} {entries : List FaultEntry}

/-! ## The end of a transaction by a reply (R160, R161) -/

/-- A valid reply taken, before its faults are counted: its rack is ONLINE, with a RACK event if it was not (R161). -/
def State.replyTaken (s : State) (r : Nat) : State :=
  { s with rackInFlight := none
           racks := (s.setRack r { s.rack r with state := .online, missCount := 0 }).racks
           events := if (s.rack r).state = .online then s.events else (s.latchRack r .online).events }

theorem rackReplied_eq (r : Nat) : State.rackReplied { s with rackInFlight := none } r = s.replyTaken r := by
  rw [State.rackReplied, State.replyTaken]
  by_cases online : (s.rack r).state = .online
  · rw [if_pos online]
    exact if_pos online
  · rw [if_neg online]
    exact if_neg online

theorem rack_replyTaken {r : Nat} (fits : r < 4) :
    (s.replyTaken r).rack r = { s.rack r with state := .online, missCount := 0 } := rack_setRack_same fits _

/-- The RACK event of a reply leaves the CIRCUIT group as it was. -/
theorem replyTaken_circuitEvent (s : State) (r : Nat) :
    (s.replyTaken r).events.flags.circuit = s.events.flags.circuit ∧
      (s.replyTaken r).events.details.circuit = s.events.details.circuit := by
  rw [State.replyTaken]
  split <;> exact ⟨rfl, rfl⟩

theorem endTransaction_of_valid (flying : s.rackInFlight = some rack.toNat) (fits : faultsFit entries = true) :
    s.endTransaction (some (rack.toNat, entries)) =
      (s.replyTaken rack.toNat).countFaults rack.toNat entries := by
  rw [State.endTransaction, flying, ← rackReplied_eq]
  exact if_pos ⟨rfl, fits⟩

theorem endTransaction_of_bad {r : Nat} (flying : s.rackInFlight = some r)
    (bad : rack.toNat ≠ r ∨ faultsFit entries = false) :
    s.endTransaction (some (rack.toNat, entries)) = s.endTransaction none := by
  rw [State.endTransaction, State.endTransaction, flying]
  exact if_neg fun valid => bad.elim (fun other => other valid.1) fun unfit => by simp [unfit] at valid

/-- A bad reply is a miss, and a reply that nothing awaits is ignored. -/
theorem exec_statusReply_of_bad (on : s.powered = true)
    (missed : s.endTransaction (some (rack.toNat, entries)) = s.endTransaction none) :
    exec (.statusReply rack entries) s = exec .rackMiss s := by
  rw [exec_statusReply on, exec_rackMiss on, missed, recomputeImages_same fun n => imageInputs_endTransaction_none s n]

/-! ## The circuits that a reply counts (R163) -/

/-- The circuits that a reply counts, in its order. -/
def countedCircuits (s : State) (r : Nat) (entries : List FaultEntry) : List Nat :=
  (countedSlots (s.rack r).lastSent entries []).map (96 * r + ·)

theorem mem_countedCircuits {r c : Nat} :
    c ∈ countedCircuits s r entries ↔
      ∃ e ∈ entries, c = 96 * r + e.slot.toNat ∧ (s.rack r).lastSent.get 0 e.slot.toNat ≠ 0 := by
  rw [countedCircuits, List.mem_map]
  constructor
  · rintro ⟨k, counted, rfl⟩
    obtain ⟨_, lit, e, mem, rfl⟩ := (mem_countedSlots entries []).mp counted
    exact ⟨e, mem, rfl, lit⟩
  · rintro ⟨e, mem, rfl, lit⟩
    exact ⟨e.slot.toNat, (mem_countedSlots entries []).mpr ⟨List.not_mem_nil, lit, e, mem, rfl⟩, rfl⟩

theorem countedCircuits_nodup (r : Nat) : (countedCircuits s r entries).Nodup :=
  (countedSlots_nodup _ _ _).map (fun _ _ same => Nat.add_left_cancel same)

theorem countedCircuits_fit (fits : faultsFit entries = true) {c : Nat} (counted : c ∈ countedCircuits s rack.toNat entries) :
    c < 384 := by
  obtain ⟨e, mem, rfl, _⟩ := mem_countedCircuits.mp counted
  rw [faultsFit, Bool.and_eq_true, List.all_eq_true] at fits
  have slot : e.slot.toNat < 96 := of_decide_eq_true (fits.2 e mem)
  have fits : rack.toNat < 4 := rack.isLt
  omega

/-- The place of an entry's circuit among the counted ones: what follows it is counted for later entries alone. -/
theorem countedCircuits_split {r : Nat} {before after : List FaultEntry} {e : FaultEntry}
    (counted : 96 * r + e.slot.toNat ∈ countedCircuits s r (before ++ e :: after)) (first : ∀ x ∈ before, x.slot ≠ e.slot) :
    ∃ earlier later, countedCircuits s r (before ++ e :: after) = earlier ++ (96 * r + e.slot.toNat) :: later ∧
      ∀ c ∈ later, ∃ x ∈ after, c = 96 * r + x.slot.toNat ∧ ∀ y ∈ before ++ [e], y.slot ≠ x.slot := by
  obtain ⟨x, _, same, lit⟩ := mem_countedCircuits.mp counted
  have litE : (s.rack r).lastSent.get 0 e.slot.toNat ≠ 0 := by
    rwa [← Nat.add_left_cancel same] at lit
  obtain ⟨seen, parts, members⟩ := countedSlots_append (s.rack r).lastSent before (e :: after) []
  have unseen : e.slot.toNat ∉ seen := fun mem => by
    rcases (members _).mp mem with mem | mem
    · cases mem
    · obtain ⟨_, _, x, mem, slot⟩ := (mem_countedSlots before []).mp mem
      exact first x mem (BitVec.eq_of_toNat_eq slot)
  rw [countedSlots, if_neg (not_or.mpr ⟨litE, unseen⟩)] at parts
  refine ⟨_, _, by rw [countedCircuits, parts, List.map_append, List.map_cons], fun c mem => ?_⟩
  obtain ⟨k, slot, rfl⟩ := List.mem_map.mp mem
  obtain ⟨new, lit, x, named, rfl⟩ := (mem_countedSlots after _).mp slot
  refine ⟨x, named, rfl, fun y hy same => new ?_⟩
  rw [List.mem_cons, members, mem_countedSlots]
  rcases List.mem_append.mp hy with hy | hy
  · exact Or.inr (Or.inr ⟨List.not_mem_nil, lit, y, hy, congrArg BitVec.toNat same⟩)
  · rw [← same, List.mem_singleton.mp hy]
    exact Or.inl rfl

/-- A valid reply: its rack is ONLINE, and its circuits are counted (R161, R163). -/
theorem faultsCounted_of_valid (flying : s.rackInFlight = some rack.toNat) (fits : faultsFit entries = true) :
    (s.replyTaken rack.toNat).FaultsCounted (countedCircuits s rack.toNat entries)
      (s.endTransaction (some (rack.toNat, entries))) := by
  rw [endTransaction_of_valid flying fits, State.countFaults, foldl_countEntry, rack_replyTaken rack.isLt]
  exact faultsCounted_foldl _ _ (countedCircuits_nodup _) fun c => countedCircuits_fit fits

/-- Settles O46: a valid reply by the circuits it counts, and every other by the miss it is. -/
theorem statusRepliesCountFaults : Obligations.StatusRepliesCountFaults := by
  unfold Obligations.StatusRepliesCountFaults
  refine ⟨fun s rack entries on flying fits => ?valid,
    fun s r rack entries on flying bad => exec_statusReply_of_bad on (endTransaction_of_bad flying bad),
    fun s rack entries on landed => ?ignored⟩
  case ignored =>
    rw [exec_statusReply on, endTransaction_of_landed landed, recomputeImages_same fun _ => rfl]
  case valid =>
    rw [exec_statusReply on]
    have result := faultsCounted_of_valid flying fits
    generalize s.endTransaction (some (rack.toNat, entries)) = v at result ⊢
    have stations : ∀ n, v.live n = s.live n := fun n => by rw [result.frame]; rfl
    have racks : v.racks = (s.replyTaken rack.toNat).racks := by rw [result.frame]
    refine ⟨_, rfl, ?_, fun r other => ?_, ?_, ?_, sameButPending_of_live s stations, ?_⟩
    · exact (congrArg (fun t => Table.get t _ _) racks).trans (rack_replyTaken rack.isLt)
    · exact (congrArg (fun t => Table.get t _ _) racks).trans (rack_setRack_other other _)
    · simp only [← mem_countedCircuits]
      obtain ⟨flag, detail⟩ := replyTaken_circuitEvent s rack.toNat
      refine ⟨result.counted, result.uncounted, fun c retires => result.retired c retires.1 retires.2, result.kept, ?_,
        fun quiet => ?_, fun before e after parts reports first later => ?_⟩
      · refine result.flag.trans ?_
        rw [flag]
        refine or_congr_right (exists_congr fun c => ?_)
        rw [← and_or_left]
        rfl
      · refine (result.quiet fun c counted reports => quiet c ?_).trans detail
        rw [← and_or_left]
        exact ⟨counted, reports⟩
      · rw [← and_or_left] at reports
        obtain ⟨counted, reports⟩ := reports
        rw [parts] at counted
        obtain ⟨earlier, rest, split, fresh⟩ := countedCircuits_split counted first
        rw [← parts] at split
        refine result.last _ _ _ split reports fun c mem again => ?_
        obtain ⟨x, inAfter, rfl, new⟩ := fresh c mem
        have counted : 96 * rack.toNat + x.slot.toNat ∈ countedCircuits s rack.toNat entries := by
          rw [split]
          exact List.mem_append_right _ (List.mem_cons_of_mem _ mem)
        obtain ⟨y, named, same⟩ := later x inAfter (and_or_left.mp ⟨counted, again⟩)
        exact new y named same
    · exact result.events
    · rw [result.frame]
      rfl

end Sys2Proof.Machine
end

section
/-! The merge (R107 to R113): the holds that its base stage counts, its stages one after another, and its bounds. -/
namespace Sys2Proof.Machine

open State

/-! ## The base and the pull (R107 to R109) -/

theorem Hold.countsForBase_iff {h : Hold} : h.countsForBase = true ↔ h.state ≠ .fadingOut ∧ h.parked = false := by
  rw [Hold.countsForBase, Bool.and_eq_true, Bool.not_eq_true', Hold.isLive, bne_iff_ne]

theorem Hold.countsForPull_iff {h : Hold} : h.countsForPull = true ↔ h.state = .fadingOut ∧ h.parked = false := by
  rw [Hold.countsForPull, Bool.and_eq_true, Bool.not_eq_true', Bool.not_eq_true', Hold.isLive, bne_eq_false_iff_eq]

/-- The priority that the base stage counts: the highest of the counted live holds (R107). -/
def topPriority (list : List Hold) : Nat := greatest ((list.filter Hold.countsForBase).map Hold.priority)

theorem topHolds_eq (list : List Hold) :
    topHolds list = list.filter fun h => h.countsForBase && h.priority == topPriority list := by
  rw [topHolds, List.filter_filter]
  exact List.filter_congr fun h _ => Bool.and_comm _ _

theorem priority_le_topPriority {list : List Hold} {h : Hold} (mem : h ∈ list) (counts : h.countsForBase = true) :
    h.priority ≤ topPriority list := le_greatest (List.mem_map_of_mem (List.mem_filter.mpr ⟨mem, counts⟩))

theorem topPriority_eq {list : List Hold} {h : Hold} (mem : h ∈ list) (counts : h.countsForBase = true)
    (top : ∀ k ∈ list, k.countsForBase = true → k.priority ≤ h.priority) : topPriority list = h.priority := by
  refine Nat.le_antisymm (greatest_le.mpr fun x hx => ?_) (priority_le_topPriority mem counts)
  obtain ⟨k, mem, rfl⟩ := List.mem_map.mp hx
  obtain ⟨mem, counts⟩ := List.mem_filter.mp mem
  exact top k mem counts

theorem topHolds_of_uncounted {list : List Hold} (uncounted : ∀ h ∈ list, h.countsForBase = false) : topHolds list = [] := by
  rw [topHolds_eq, List.filter_eq_nil_iff]
  intro h mem
  rw [uncounted h mem]
  exact Bool.false_ne_true

theorem baseLevel_of_uncounted (rule : MergeRule) {list : List Hold} (uncounted : ∀ h ∈ list, h.countsForBase = false) :
    baseLevel rule list = 0 := by
  have none := topHolds_of_uncounted uncounted
  cases rule with
  | htp =>
    show greatest ((topHolds list).map Hold.level) = 0
    rw [none]
    rfl
  | ltp =>
    show ((topHolds list).getLast?.map Hold.level).getD 0 = 0
    rw [none]
    rfl

/-- HTP: the highest level among the holds of the highest priority (R107). -/
theorem baseLevel_htp {list : List Hold} {h : Hold} (mem : h ∈ list) (counts : h.countsForBase = true)
    (top : ∀ k ∈ list, k.countsForBase = true → k.priority < h.priority ∨ k.priority = h.priority ∧ k.level ≤ h.level) :
    baseLevel .htp list = h.level := by
  have highest : topPriority list = h.priority := topPriority_eq mem counts fun k hk counted =>
    (top k hk counted).elim Nat.le_of_lt fun same => Nat.le_of_eq same.1
  show greatest ((topHolds list).map Hold.level) = h.level
  rw [topHolds_eq, highest]
  refine Nat.le_antisymm (greatest_le.mpr fun x hx => ?_) (le_greatest (List.mem_map_of_mem (List.mem_filter.mpr ⟨mem, ?_⟩)))
  · obtain ⟨k, mem, rfl⟩ := List.mem_map.mp hx
    obtain ⟨mem, is⟩ := List.mem_filter.mp mem
    rw [Bool.and_eq_true, beq_iff_eq] at is
    exact (top k mem is.1).elim (fun lower => absurd is.2 (Nat.ne_of_lt lower)) And.right
  · rw [counts, beq_self_eq_true, Bool.and_self]

/-- LTP: the level of the hold nearest the end among the holds of the highest priority (R108). -/
theorem baseLevel_ltp {before after : List Hold} {h : Hold} (counts : h.countsForBase = true)
    (earlier : ∀ k ∈ before, k.countsForBase = true → k.priority ≤ h.priority)
    (later : ∀ k ∈ after, k.countsForBase = true → k.priority < h.priority) :
    baseLevel .ltp (before ++ h :: after) = h.level := by
  have highest : topPriority (before ++ h :: after) = h.priority := by
    refine topPriority_eq (List.mem_append_right _ List.mem_cons_self) counts fun k mem counted => ?_
    rcases List.mem_append.mp mem with mem | mem
    · exact earlier k mem counted
    · rcases List.mem_cons.mp mem with rfl | mem
      · exact Nat.le_refl _
      · exact Nat.le_of_lt (later k mem counted)
  have none : after.filter (fun k => k.countsForBase && k.priority == h.priority) = [] := by
    rw [List.filter_eq_nil_iff]
    intro k mem is
    rw [Bool.and_eq_true, beq_iff_eq] at is
    exact Nat.ne_of_lt (later k mem is.1) is.2
  show ((topHolds (before ++ h :: after)).getLast?.map Hold.level).getD 0 = h.level
  rw [topHolds_eq, highest, List.filter_append, List.filter_cons, counts, beq_self_eq_true, none, Bool.and_self, if_pos rfl,
    List.getLast?_concat]
  rfl

theorem level_le_pullLevel {list : List Hold} {h : Hold} (mem : h ∈ list) (counts : h.countsForPull = true) :
    h.level ≤ pullLevel list := le_greatest (List.mem_map_of_mem (List.mem_filter.mpr ⟨mem, counts⟩))

/-- The pull is 0 or the level of a counted fading-out hold (R109). -/
theorem pullLevel_of_mem (list : List Hold) :
    pullLevel list = 0 ∨ ∃ h ∈ list, h.countsForPull = true ∧ h.level = pullLevel list := by
  rcases greatest_mem ((list.filter Hold.countsForPull).map Hold.level) with none | some
  · refine Or.inl ?_
    rw [pullLevel, none]
    rfl
  · obtain ⟨h, mem, level⟩ := List.mem_map.mp some
    obtain ⟨mem, counts⟩ := List.mem_filter.mp mem
    exact Or.inr ⟨h, mem, counts, level⟩

/-! ## The later stages (R110 to R113) -/

section
variable {a : CircuitAttrs} (holdover merged : Nat)

theorem overlaid_panicked (serving : a.retired = false) (participant : a.panicParticipant = true) :
    overlaid a .panic holdover merged = 1000 := by
  simp [overlaid, serving, participant]

theorem overlaid_floored {mode : Mode} (serving : a.retired = false) (notWork : mode ≠ .work)
    (calm : mode = .panic → a.panicParticipant = false) (notHoldover : mode ≠ .holdover) :
    overlaid a mode holdover merged = max merged (if a.egress then a.floor else 0) := by
  have raised : ¬ (a.panicParticipant = true ∧ mode = .panic) := fun both => by simp [calm both.2] at both
  rw [overlaid, serving]
  simp only [notHoldover, notWork, raised, and_false, if_false, ne_eq, not_false_eq_true, and_true, Bool.false_eq_true]
  split
  · rfl
  · exact (Nat.max_zero _).symm

theorem overlaid_work (serving : a.retired = false) : overlaid a .work holdover merged = merged := by
  simp [overlaid, serving]

theorem overlaid_held (serving : a.retired = false) :
    overlaid a .holdover holdover merged =
      max (max merged (if a.egress then a.floor else 0)) (if a.house then holdover else 0) := by
  cases egress : a.egress <;> cases house : a.house <;> simp [overlaid, serving, egress, house]

theorem overlaid_le {mode : Mode} {holdover merged : Nat} (floor : a.floor ≤ 1000) (held : holdover ≤ 1000)
    (fits : merged ≤ 1000) : overlaid a mode holdover merged ≤ 1000 := by
  rw [overlaid]
  have floored : (if a.egress = true ∧ mode ≠ .work then max merged a.floor else merged) ≤ 1000 := by
    split
    · exact Nat.max_le.mpr ⟨fits, floor⟩
    · exact fits
  generalize (if a.egress = true ∧ mode ≠ .work then max merged a.floor else merged) = level at *
  have raised : (if a.house = true ∧ mode = .holdover then max level holdover else level) ≤ 1000 := by
    split
    · exact Nat.max_le.mpr ⟨floored, held⟩
    · exact floored
  split
  · exact Nat.zero_le _
  · split
    · exact Nat.le_refl _
    · exact raised

end

/-! ## The bounds (R76, R113) -/

section
variable {s : State} (law : s.LevelLaw) (c : Nat)
include law

theorem mergedLevel_le : s.mergedLevel c ≤ 1000 :=
  mergedOf_le fun h mem => (law.2 h (mem_contributions.mp mem).1).1

theorem outputLevel_le : s.outputLevel c ≤ 1000 := by
  obtain ⟨_, _, floors, holdover⟩ := law.1 s.config List.mem_cons_self
  exact overlaid_le (floors c) holdover (mergedLevel_le law c)

end

/-- Settles O48, stage by stage. -/
theorem mergeGivesOutputLevel : Obligations.MergeGivesOutputLevel := by
  unfold Obligations.MergeGivesOutputLevel
  refine ⟨fun rule list idle => ?uncounted, fun list h mem live unparked top => ?htp,
    fun before after h live unparked earlier later => ?ltp, fun list => ⟨fun h mem fading unparked => ?pull, ?pulled⟩,
    fun s c => ?stages, fun s law c => ⟨mergedLevel_le law c, outputLevel_le law c, curveCode_le_255 _ (outputLevel_le law c)⟩⟩
  case uncounted =>
    refine baseLevel_of_uncounted rule fun h mem => Bool.eq_false_iff.mpr fun counts => ?_
    obtain ⟨live, unparked⟩ := Hold.countsForBase_iff.mp counts
    exact (idle h mem).elim live fun parked => by simp [parked] at unparked
  case htp =>
    refine baseLevel_htp mem (Hold.countsForBase_iff.mpr ⟨live, unparked⟩) fun k mem counts => ?_
    obtain ⟨live, unparked⟩ := Hold.countsForBase_iff.mp counts
    exact top k mem live unparked
  case ltp =>
    refine baseLevel_ltp (Hold.countsForBase_iff.mpr ⟨live, unparked⟩) (fun k mem counts => ?_) fun k mem counts => ?_
    · obtain ⟨live, unparked⟩ := Hold.countsForBase_iff.mp counts
      exact earlier k mem live unparked
    · obtain ⟨live, unparked⟩ := Hold.countsForBase_iff.mp counts
      exact later k mem live unparked
  case pull => exact level_le_pullLevel mem (Hold.countsForPull_iff.mpr ⟨fading, unparked⟩)
  case pulled =>
    refine (pullLevel_of_mem list).imp_right fun some => ?_
    obtain ⟨h, mem, counts, level⟩ := some
    obtain ⟨fading, unparked⟩ := Hold.countsForPull_iff.mp counts
    exact ⟨h, mem, fading, unparked, level⟩
  case stages =>
    refine ⟨rfl, outputLevel_of_retired, fun serving mode participant => ?_, fun serving mode calm => ?_, fun serving mode => ?_,
      fun serving modes => ?_, fun serving mode => ?_, rfl⟩ <;> rw [State.outputLevel]
    · rw [mode]
      exact overlaid_panicked _ _ serving participant
    · exact overlaid_floored _ _ serving (by simp [mode]) (fun _ => calm) (by simp [mode])
    · rw [mode]
      exact overlaid_work _ _ serving
    · rcases modes with mode | mode | mode <;>
        exact overlaid_floored _ _ serving (by simp [mode]) (by simp [mode]) (by simp [mode])
    · rw [mode]
      exact overlaid_held _ _ serving

end Sys2Proof.Machine
end

section
/-! The target circuits (R48) under a MOVING mark. -/
namespace Sys2Proof.Machine

open State

variable {s : State}

/-! ## The MOVING mapping -/

theorem mapOne_of_unmarked {all : List (Nat × Nat)} {x : Nat × Nat} (unmarked : (s.circuit x.1).moving = none) :
    s.mapOne all x = some x := by
  rw [State.mapOne, unmarked]

theorem mapOne_of_marked {all : List (Nat × Nat)} {x : Nat × Nat} {new : Nat} (marked : (s.circuit x.1).moving = some new) :
    s.mapOne all x = if all.any (fun y => y.1 == new) then none else some (new, x.2) := by
  rw [State.mapOne, marked]

theorem mapMoving_of_unmarked (unmarked : ∀ c, (s.circuit c).moving = none) (l : List (Nat × Nat)) : s.mapMoving l = l := by
  have same : s.mapOne l = some := funext fun x => mapOne_of_unmarked (unmarked x.1)
  rw [State.mapMoving, same, List.filterMap_some]

/-- The mapping of a list under one mark (R48). -/
theorem mapMoving_of_marked {old new : Nat} (marked : ∀ c, (s.circuit c).moving = if c = old then some new else none)
    (l : List (Nat × Nat)) :
    s.mapMoving l = (l.filter fun x => !(x.1 == old && l.any (fun y => y.1 == new))).map
      (fun x => if x.1 = old then (new, x.2) else x) := by
  rw [State.mapMoving, ← List.filterMap_eq_map, List.filterMap_filter]
  refine congrArg (fun f => l.filterMap f) (funext fun x => ?_)
  by_cases moves : x.1 = old
  · rw [mapOne_of_marked ((marked x.1).trans (if_pos moves)), beq_iff_eq.mpr moves, Bool.true_and, Function.comp_apply,
      if_pos moves]
    cases l.any fun y => y.1 == new <;> rfl
  · rw [mapOne_of_unmarked ((marked x.1).trans (if_neg moves)), beq_eq_false_iff_ne.mpr moves, Bool.false_and,
      Function.comp_apply, if_neg moves]
    rfl

/-- With no more than one marked circuit, the mapping keeps the circuits of a list apart: what takes a marked one's place is
not in the list. -/
theorem mapMoving_nodup (one : ∀ c d new other, (s.circuit c).moving = some new → (s.circuit d).moving = some other → c = d)
    {l : List (Nat × Nat)} (distinct : (l.map Prod.fst).Nodup) : ((s.mapMoving l).map Prod.fst).Nodup := by
  have mapped : ∀ x ∈ l, ∀ b, s.mapOne l x = some b →
      (s.circuit x.1).moving = none ∧ b = x ∨ (s.circuit x.1).moving = some b.1 ∧ ∀ y ∈ l, y.1 ≠ b.1 := by
    intro x mem b out
    cases marked : (s.circuit x.1).moving with
    | none =>
      rw [mapOne_of_unmarked marked] at out
      cases out
      exact Or.inl ⟨rfl, rfl⟩
    | some new =>
      rw [mapOne_of_marked marked] at out
      split at out
      · cases out
      · rename_i absent
        cases out
        refine Or.inr ⟨rfl, fun y hy same => absent ?_⟩
        exact List.any_eq_true.mpr ⟨y, hy, beq_iff_eq.mpr same⟩
  rw [List.Nodup, List.pairwise_map] at distinct ⊢
  rw [State.mapMoving, List.pairwise_filterMap]
  refine distinct.imp_of_mem fun {x y} hx hy apart b outX b' outY => ?_
  rcases mapped x hx b outX with ⟨_, rfl⟩ | ⟨markedX, freshX⟩ <;> rcases mapped y hy b' outY with ⟨_, rfl⟩ | ⟨markedY, freshY⟩
  · exact apart
  · exact freshY b hx
  · exact (freshX b' hy).symm
  · exact absurd (one _ _ _ _ markedX markedY) apart

/-! ## The target circuits -/

theorem listed_nodup (law : s.ListsLaw) (target : Target) (level : Nat) :
    ((s.listed target level).map Prod.fst).Nodup := by
  obtain ⟨groups, presets⟩ := law s.config List.mem_cons_self
  cases target with
  | absent => exact List.nodup_nil
  | circuit c => exact List.nodup_singleton c
  | group g =>
    show ((s.group g).map (fun c => (c, level)) |>.map Prod.fst).Nodup
    rw [List.map_map]
    exact (List.map_id (s.group g)).symm ▸ (groups g).2
  | preset p => exact (presets p).2

theorem Sweeper.markOn_eq_some {w : Sweeper} {c new : Nat} (marked : w.markOn c = some new) :
    ∃ job, w.state = .sweeping job ∧ c = job.oldCircuit := by
  rw [Sweeper.markOn] at marked
  split at marked
  · rename_i job sweeping
    split at marked
    · rename_i same
      exact ⟨job, sweeping, same⟩
    · cases marked
  · cases marked

/-- A sweep marks one circuit (R169). -/
theorem one_mark (law : s.MarkLaw) (c d new other : Nat) (markedC : (s.circuit c).moving = some new)
    (markedD : (s.circuit d).moving = some other) : c = d := by
  rw [law] at markedC markedD
  obtain ⟨job, sweeping, rfl⟩ := Sweeper.markOn_eq_some markedC
  obtain ⟨same, sweepingD, rfl⟩ := Sweeper.markOn_eq_some markedD
  rw [sweeping] at sweepingD
  cases sweepingD
  rfl

/-- Settles O49: the mapping without a mark and under one, and the laws for the marks there can be. -/
theorem targetCircuits : Obligations.TargetCircuits := by
  unfold Obligations.TargetCircuits
  refine ⟨fun s level => ⟨rfl, fun c => rfl, fun g => rfl, fun p => rfl⟩, fun s target level unmarked => ?unmarked,
    fun s target level old new _ marked => ⟨mapMoving_of_marked marked _, rfl⟩, fun s target level lists marks => ?distinct⟩
  case unmarked => rw [State.targets, State.mappedTargets, mapMoving_of_unmarked unmarked]
  case distinct =>
    have mapped := mapMoving_nodup (one_mark marks) (listed_nodup lists target level)
    exact mapped.sublist (List.filter_sublist.map Prod.fst)

end Sys2Proof.Machine
end

section
/-! Indicator images (R34, R35): the state of a control by its binding, and what a recomputation makes of image pending. -/
namespace Sys2Proof.Machine

open State

/-! ## FOLLOW_HOLD over the holds of an originator (R34) -/

/-- The holds of an originator on the circuits, as R34 reads them. -/
def State.viewsOn (s : State) (o : Originator) (circuits : List (Nat × Nat)) : List HoldView :=
  (s.holds.filter (Hold.isOn o circuits)).map Hold.view

/-- A test of the originator's live holds on the circuits. -/
theorem any_viewsOn {s : State} {o : Originator} {circuits : List (Nat × Nat)} {test : HoldView → Bool} {P : Hold → Prop}
    (reads : ∀ h : Hold, test h.view = true ↔ P h) :
    (s.viewsOn o circuits).any test = true ↔
      ∃ h, (h ∈ s.holds ∧ h.originator = o ∧ ∃ x ∈ circuits, x.1 = h.circuit) ∧ P h := by
  simp only [State.viewsOn, List.any_map, List.any_filter, List.any_eq_true, Function.comp_apply, Bool.and_eq_true, reads,
    Hold.isOn, beq_iff_eq, and_assoc]

section
variable (s : State) (o : Originator) (circuits : List (Nat × Nat))

/-- R34's holds of one control: of the originator, on the circuits. -/
def State.Owns (h : Hold) : Prop := h ∈ s.holds ∧ h.originator = o ∧ ∃ x ∈ circuits, x.1 = h.circuit

theorem any_warned_iff_owned :
    ((s.viewsOn o circuits).any fun h => !h.fadingOut && !h.parked && h.warning) = true ↔
      ∃ h, s.Owns o circuits h ∧ h.state ≠ .fadingOut ∧ h.parked = false ∧ h.expiry = some 1 :=
  any_viewsOn fun h => by simp [Hold.view, Hold.isLive, Hold.inWarning, and_assoc]

theorem any_unparked_iff_owned :
    ((s.viewsOn o circuits).any fun h => !h.fadingOut && !h.parked) = true ↔
      ∃ h, s.Owns o circuits h ∧ h.state ≠ .fadingOut ∧ h.parked = false :=
  any_viewsOn fun h => by simp [Hold.view, Hold.isLive]

theorem any_parked_iff_owned :
    ((s.viewsOn o circuits).any fun h => !h.fadingOut && h.parked) = true ↔
      ∃ h, s.Owns o circuits h ∧ h.state ≠ .fadingOut ∧ h.parked = true :=
  any_viewsOn fun h => by simp [Hold.view, Hold.isLive]

end

section
variable {holds : List HoldView}

theorem followHold_of_warned (warned : (holds.any fun h => !h.fadingOut && !h.parked && h.warning) = true) :
    followHold holds = .fastFlash := if_pos warned

theorem followHold_of_unparked (calm : ¬ (holds.any fun h => !h.fadingOut && !h.parked && h.warning) = true)
    (unparked : (holds.any fun h => !h.fadingOut && !h.parked) = true) : followHold holds = .on :=
  (if_neg calm).trans (if_pos unparked)

/-- A hold in warning is unparked, so with no unparked hold there is no warning. -/
theorem followHold_of_none (none : ¬ (holds.any fun h => !h.fadingOut && !h.parked) = true) :
    followHold holds = if holds.any (fun h => !h.fadingOut && h.parked) then .slowFlash else .off := by
  refine (if_neg fun warned => none ?_).trans (if_neg none)
  obtain ⟨h, mem, is⟩ := List.any_eq_true.mp warned
  rw [Bool.and_eq_true] at is
  exact List.any_eq_true.mpr ⟨h, mem, is.1⟩

end

/-! ## The state of a control (R34) -/

section
variable {mode : Mode} {x : ControlInputs}

theorem controlState_of_panic (kind : x.binding.kind = .panic) :
    controlState mode x = if mode = .panic then .on else .off := by
  rw [controlState, kind]

theorem controlState_of_stationClear (kind : x.binding.kind = .stationClear) : controlState mode x = .off := by
  rw [controlState, kind]

theorem controlState_of_acting (notPanic : x.binding.kind ≠ .panic) (notClear : x.binding.kind ≠ .stationClear) :
    controlState mode x =
      match x.binding.indicator with
      | .followHold => followHold x.holds
      | .followLevel => followLevel x
      | .dark => .off := by
  rw [controlState]
  cases kind : x.binding.kind with
  | panic => exact absurd kind notPanic
  | stationClear => exact absurd kind notClear
  | _ => rfl

theorem controlState_of_dark (notPanic : x.binding.kind ≠ .panic) (notClear : x.binding.kind ≠ .stationClear)
    (rule : x.binding.indicator = .dark) : controlState mode x = .off := by
  rw [controlState_of_acting notPanic notClear, rule]

theorem controlState_of_followHold (notPanic : x.binding.kind ≠ .panic) (notClear : x.binding.kind ≠ .stationClear)
    (rule : x.binding.indicator = .followHold ∨ x.binding.indicator = .followLevel ∧ ∃ p, x.binding.target = .preset p) :
    controlState mode x = followHold x.holds := by
  rw [controlState_of_acting notPanic notClear]
  rcases rule with rule | ⟨rule, p, target⟩
  · rw [rule]
  · rw [rule]
    show followLevel x = _
    rw [followLevel, target]

theorem controlState_of_followLevel (notPanic : x.binding.kind ≠ .panic) (notClear : x.binding.kind ≠ .stationClear)
    (rule : x.binding.indicator = .followLevel) (noPreset : ∀ p, x.binding.target ≠ .preset p) :
    controlState mode x = if x.levels.any (fun l => decide (0 < l)) then .on else .off := by
  rw [controlState_of_acting notPanic notClear, rule]
  show followLevel x = _
  rw [followLevel]
  cases target : x.binding.target with
  | preset p => exact absurd target (noPreset p)
  | _ => rfl

end

/-- The levels of a FOLLOW_LEVEL control are those of its circuits. -/
theorem controlInputs_levels {s : State} {i : Nat} {b : Binding} (rule : b.indicator = .followLevel) :
    (s.controlInputs i b).levels = (s.mappedTargets b.target b.level).map fun x => s.outputLevel x.1 := if_pos rule

/-- One control's place in the image. -/
theorem image_control (s : State) (n : Nat) {c : Nat} (control : c < 16) :
    (s.image n)[c]? =
      some (((s.reached (s.slot n) c).map fun x => controlState s.mode (s.controlInputs x.1 x.2)).getD .off) := by
  rw [State.image, ImageInputs.image, State.imageInputs, List.getElem?_map, List.getElem?_map, List.getElem?_range control]
  exact congrArg (fun state => some (Option.getD state Indicator.off)) (Option.map_map _ _ _)

theorem image_of_unreached {s : State} {n c : Nat} (control : c < 16)
    (unreached : ¬ (c < (s.slot n).count ∧ (s.slot n).base + c ≤ 1023 ∧ (s.binding ((s.slot n).base + c)).present = true)) :
    (s.image n)[c]? = some .off := by
  rw [image_control s n control, State.reached, if_neg unreached]
  rfl

theorem image_of_reached {s : State} {n c : Nat} (control : c < 16)
    (reached : c < (s.slot n).count ∧ (s.slot n).base + c ≤ 1023 ∧ (s.binding ((s.slot n).base + c)).present = true) :
    (s.image n)[c]? = some (controlState s.mode
      (s.controlInputs ((s.slot n).base + c) (s.binding ((s.slot n).base + c)))) := by
  rw [image_control s n control, State.reached, if_pos reached]
  rfl

/-! ## A recomputation (R35) -/

section
variable {before after : State} {n : Nat}

theorem recomputeOne_of_changed (enrolled : (after.slot n).enrolled = true)
    (changed : after.imageInputs n ≠ before.imageInputs n) (v : StationLive) :
    State.recomputeOne before after n v = v.recomputed (after.image n) (after.imageInFlight n) := if_pos ⟨enrolled, changed⟩

theorem recomputeOne_of_kept (kept : (after.slot n).enrolled = false ∨ after.imageInputs n = before.imageInputs n)
    (v : StationLive) : State.recomputeOne before after n v = v :=
  if_neg fun both => kept.elim (fun unenrolled => by simp [unenrolled] at both) both.2

end

section
variable {v : StationLive} {image : List Indicator} {inFlight : Bool}

theorem recomputed_of_other (other : image ≠ v.lastImage) :
    v.recomputed image inFlight = { v with imagePending := true } := if_pos other

theorem recomputed_of_same (same : image = v.lastImage) :
    v.recomputed image inFlight =
      if inFlight = true ∨ v.forced = true then v else { v with imagePending := false } := if_neg fun other => other same

end

/-! ## Image pending after every command -/

theorem pendingRecomputed_refused (s : State) (k : Byte) (result : ResultCode) (ref : SenseRef) (fields : List (Nat × Nat))
    (n : Nat) : s.PendingRecomputed (s.refusedWith k result ref fields) n := by
  rw [refusedWith_eq]
  exact pendingRecomputed_same rfl rfl

theorem pendingRecomputed_lapsedEarly (s : State) (n : Nat) : s.PendingRecomputed s.lapsedEarly n := by
  have lapsed : s.PendingRecomputed (s.recomputeImages (s.lapse .early)) n :=
    pendingRecomputed_recomputed rfl (by rw [lapse_frame]; rfl)
  exact lapsed

/-- Every command leaves what the recomputation gives, where no rule of its own sets image pending (R35). -/
theorem pendingRecomputed_of_next {i : Instr} {s t : State} {n : Nat} (runs : exec i s = .next t)
    (unset : ¬ s.PendingSetBy i n) : s.PendingRecomputed t n := by
  have frames := not_badFrame_of_next runs
  have named := not_badCommand_of_next runs
  cases on : s.powered with
  | true =>
    cases code : i.code with
    | some k =>
      obtain ⟨u, same, answered⟩ := exec_answered on code named
      rw [runs] at same
      cases same
      cases answered with
      | refused result ref fields => exact pendingRecomputed_refused s k result ref fields n
      | accepted t fields port pending sense images => exact images n unset
      | lapsed => exact pendingRecomputed_lapsedEarly s n
    | none =>
      obtain ⟨u, same, _, images⟩ := exec_handled on code frames
      rw [runs] at same
      cases same
      exact images n unset
  | false =>
    by_cases starts : ∃ p, i = .startUp p
    · obtain ⟨p, rfl⟩ := starts
      exact absurd trivial unset
    by_cases stops : i = .powerLoss
    · subst stops
      cases runs
      exact pendingRecomputed_same rfl rfl
    · rw [exec_unpowered on frames named (fun p is => starts ⟨p, is⟩) stops] at runs
      cases runs
      exact pendingRecomputed_same rfl rfl

/-- Settles O50: the controls by their bindings, the recomputation by its cases, and every command by `Answered` and `Handled`. -/
theorem indicatorImages : Obligations.IndicatorImages := by
  unfold Obligations.IndicatorImages
  refine ⟨fun s n c control => ?controls, fun before after n => ⟨recomputeImages_sameButPending before after, ?changed, ?kept⟩,
    fun i s t n runs unset => pendingRecomputed_of_next runs unset⟩
  case kept =>
    intro kept
    rw [live_recomputeImages, recomputeOne_of_kept kept]
  case changed =>
    intro enrolled changed
    rw [live_recomputeImages, recomputeOne_of_changed enrolled changed]
    refine ⟨fun other => by rw [recomputed_of_other other], fun same idle unforced => ?_, fun same stands => ?_⟩
    · rw [recomputed_of_same same, if_neg (by simp [idle, unforced])]
    · rw [recomputed_of_same same, if_pos stands]
  case controls =>
    intro slot i b reached targets mine unparked warned parked acts byHold
    have rule (a : acts) (rule : byHold) : (s.image n)[c]? = some (followHold (s.viewsOn (b.originator i) targets)) := by
      obtain ⟨reaches, notPanic, notClear⟩ := a
      rw [image_of_reached control reaches]
      exact congrArg some (controlState_of_followHold (x := s.controlInputs i b) notPanic notClear rule)
    have level (a : acts) (follows : b.indicator = .followLevel) (noPreset : ∀ p, b.target ≠ .preset p) :
        (s.image n)[c]? =
          some (if (targets.map fun x => s.outputLevel x.1).any (fun l => decide (0 < l)) then .on else .off) := by
      obtain ⟨reaches, notPanic, notClear⟩ := a
      rw [image_of_reached control reaches, ← controlInputs_levels (i := i) follows]
      exact congrArg some (controlState_of_followLevel (x := s.controlInputs i b) notPanic notClear follows noPreset)
    refine ⟨image_of_unreached control, fun reaches kind => ?_, fun reaches kind => ?_, fun a dark => ?_, fun a hold w => ?_,
      fun a hold calm u => ?_, fun a hold none p => ?_, fun a hold none noneParked => ?_, fun a follows noPreset some => ?_,
      fun a follows noPreset all => ?_⟩
    · rw [image_of_reached control reaches]
      exact congrArg _ (controlState_of_panic (x := s.controlInputs i b) kind)
    · rw [image_of_reached control reaches]
      exact congrArg _ (controlState_of_stationClear (x := s.controlInputs i b) kind)
    · obtain ⟨reaches, notPanic, notClear⟩ := a
      rw [image_of_reached control reaches]
      exact congrArg _ (controlState_of_dark (x := s.controlInputs i b) notPanic notClear dark)
    · rw [rule a hold, followHold_of_warned ((any_warned_iff_owned s _ targets).mpr w)]
    · rw [rule a hold, followHold_of_unparked (fun w => calm ((any_warned_iff_owned s _ targets).mp w))
        ((any_unparked_iff_owned s _ targets).mpr u)]
    · rw [rule a hold, followHold_of_none (fun u => none ((any_unparked_iff_owned s _ targets).mp u)),
        if_pos ((any_parked_iff_owned s _ targets).mpr p)]
    · rw [rule a hold, followHold_of_none (fun u => none ((any_unparked_iff_owned s _ targets).mp u)),
        if_neg fun p => noneParked ((any_parked_iff_owned s _ targets).mp p)]
    · obtain ⟨x, mem, above⟩ := some
      rw [level a follows noPreset, if_pos]
      exact List.any_eq_true.mpr ⟨_, List.mem_map_of_mem mem, decide_eq_true above⟩
    · rw [level a follows noPreset, if_neg]
      intro some
      obtain ⟨l, mem, above⟩ := List.any_eq_true.mp some
      obtain ⟨x, target, rfl⟩ := List.mem_map.mp mem
      exact absurd (all x target) (Nat.ne_of_gt (of_decide_eq_true above))

end Sys2Proof.Machine
end

section
/-! The packed binding record (R183): packing is undone by unpacking, field by field. -/
namespace Sys2Proof.Machine

/-! ## Packed fields -/

/-- Every field lies within its width. -/
def FieldsFit (fields : List (Nat × Nat)) : Prop := ∀ x ∈ fields, x.2 < 2 ^ x.1

theorem unpackNat_packNat {fields : List (Nat × Nat)} (fit : FieldsFit fields) :
    unpackNat (fields.map Prod.fst) (packNat fields) = fields.map Prod.snd := by
  induction fields with
  | nil => rfl
  | cons x rest ih =>
    obtain ⟨w, v⟩ := x
    obtain ⟨low, fit⟩ := List.forall_mem_cons.mp fit
    have first : v % 2 ^ w = v := Nat.mod_eq_of_lt low
    have here : (v + 2 ^ w * packNat rest) % 2 ^ w = v := by rw [Nat.add_mul_mod_self_left, first]
    have later : (v + 2 ^ w * packNat rest) / 2 ^ w = packNat rest := by
      rw [Nat.add_mul_div_left _ _ (Nat.two_pow_pos w), Nat.div_eq_of_lt low, Nat.zero_add]
    rw [packNat, first, List.map_cons, List.map_cons, unpackNat, here, later, ih fit]

theorem packNat_lt (fields : List (Nat × Nat)) : packNat fields < 2 ^ (fields.map Prod.fst).sum := by
  induction fields with
  | nil => exact Nat.zero_lt_one
  | cons x rest ih =>
    obtain ⟨w, v⟩ := x
    have low : v % 2 ^ w < 2 ^ w := Nat.mod_lt _ (Nat.two_pow_pos w)
    rw [packNat, List.map_cons, List.sum_cons, Nat.pow_add]
    calc v % 2 ^ w + 2 ^ w * packNat rest < 2 ^ w + 2 ^ w * packNat rest := Nat.add_lt_add_right low _
      _ = 2 ^ w * (packNat rest + 1) := by rw [Nat.mul_add, Nat.mul_one, Nat.add_comm]
      _ ≤ 2 ^ w * 2 ^ (rest.map Prod.fst).sum := Nat.mul_le_mul_left _ ih

/-! ## The codes of a record's fields -/

theorem bindingKindOf_code (k : BindingKind) : bindingKindOf k.code = k := by cases k <;> rfl

theorem indicatorRuleOf_code (r : IndicatorRule) : indicatorRuleOf r.code = some r := by cases r <;> rfl

theorem targetOf_kindCode {t : Target} (fits : t.fits = true) : targetOf t.kindCode t.number = some t := by
  cases t with
  | absent => rfl
  | circuit c => exact if_pos (of_decide_eq_true fits)
  | group g => exact if_pos (of_decide_eq_true fits)
  | preset p => exact if_pos (of_decide_eq_true fits)

/-- An optional field, from its present bit and its value. -/
theorem optional_of_parts (o : Option Nat) : (if o.isSome.toNat = 1 then some (o.getD 0) else none) = o := by
  cases o <;> rfl

/-- The fields of a packed record, each with its width, in the order of `recordWidths`. -/
def recordFields (b : Binding) : List (Nat × Nat) :=
  [yesNo b.present, (3, b.kind.code), (2, b.target.kindCode), (2, b.indicator.code), (9, b.target.number),
    (3, b.priority), (2, b.authority), yesNo b.owner.isSome, yesNo b.expiry.isSome, (10, b.level), (4, b.zone),
    (2, b.fade / 256), (8, b.fade % 256), (10, b.owner.getD 0), (6, 0), (8, b.expiry.getD 0)]

theorem writeRecord_toNat (b : Binding) : (writeRecord b).toNat = packNat (recordFields b) := by
  have bits : ((recordFields b).map Prod.fst).sum = 72 := by simp [recordFields, yesNo]
  have bound := packNat_lt (recordFields b)
  rw [bits] at bound
  rw [writeRecord, ← recordFields, BitVec.toNat_ofNat, Nat.mod_eq_of_lt bound]

theorem target_number_lt {t : Target} (fits : t.fits = true) : t.number < 2 ^ 9 := by
  cases t with
  | absent => decide
  | circuit c => exact Nat.lt_trans (of_decide_eq_true fits : c < 384) (by decide)
  | group g => exact Nat.lt_trans (of_decide_eq_true fits : g < 64) (by decide)
  | preset p => exact Nat.lt_trans (of_decide_eq_true fits : p < 48) (by decide)

theorem target_kindCode_lt (t : Target) : t.kindCode < 2 ^ 2 := by
  cases t with
  | absent => exact Nat.zero_lt_succ 3
  | circuit _ => exact (by decide : 1 < 4)
  | group _ => exact (by decide : 2 < 4)
  | preset _ => exact (by decide : 3 < 4)

/-- The ranges of R11 lie within the widths of R183. -/
theorem recordFields_fit {b : Binding} (fits : b.fits = true) : FieldsFit (recordFields b) := by
  simp only [Binding.fits, Bool.and_eq_true, decide_eq_true_eq] at fits
  obtain ⟨⟨⟨⟨⟨⟨⟨⟨⟨target, _⟩, level⟩, fade⟩, _⟩, priority⟩, authority⟩, zone⟩, owner⟩, expiry⟩ := fits
  have number := target_number_lt target
  have kind : b.kind.code < 2 ^ 3 := by cases b.kind <;> decide
  have targetKind : b.target.kindCode < 2 ^ 2 := target_kindCode_lt b.target
  have rule : b.indicator.code < 2 ^ 2 := by cases b.indicator <;> decide
  have ownerValue : b.owner.getD 0 < 2 ^ 10 := by
    cases o : b.owner with
    | none => decide
    | some i => exact owner i o
  have expiryValue : b.expiry.getD 0 < 2 ^ 8 := by
    cases e : b.expiry with
    | none => decide
    | some m => exact Nat.lt_of_le_of_lt (expiry m e).2 (by decide)
  simp only [FieldsFit, recordFields, yesNo, List.forall_mem_cons, List.not_mem_nil, false_implies, implies_true, and_true]
  have present := Bool.toNat_lt b.present
  have ownerPresent := Bool.toNat_lt b.owner.isSome
  have expiryPresent := Bool.toNat_lt b.expiry.isSome
  omega

theorem readRecord_writeRecord {b : Binding} (present : b.present = true) (fits : b.fits = true) :
    readRecord (writeRecord b) = some b := by
  have fields : unpackNat recordWidths (writeRecord b).toNat = (recordFields b).map Prod.snd := by
    rw [writeRecord_toNat]
    exact unpackNat_packNat (recordFields_fit fits)
  have targetFits : b.target.fits = true := by
    simp only [Binding.fits, Bool.and_eq_true] at fits
    exact fits.1.1.1.1.1.1.1.1.1
  have record :
      ({ present := true, kind := bindingKindOf b.kind.code, target := b.target, level := b.level,
         fade := 256 * (b.fade / 256) + b.fade % 256, priority := b.priority, authority := b.authority, zone := b.zone,
         owner := if b.owner.isSome.toNat = 1 then some (b.owner.getD 0) else none,
         expiry := if b.expiry.isSome.toNat = 1 then some (b.expiry.getD 0) else none,
         indicator := b.indicator } : Binding) = b := by
    rw [bindingKindOf_code, Nat.div_add_mod, optional_of_parts, optional_of_parts, ← present]
  rw [readRecord, fields]
  simp only [recordFields, yesNo, List.map_cons, List.map_nil, targetOf_kindCode targetFits, indicatorRuleOf_code, record, fits,
    if_true]

theorem recordPresent_writeRecord {b : Binding} (present : b.present = true) : recordPresent (writeRecord b) = true := by
  rw [recordPresent, writeRecord_toNat, recordFields, packNat, present]
  simp [yesNo]

/-- Settles O16: the record's fields fit their widths, so unpacking gives them back. -/
theorem bindingRecordRoundTrip : Obligations.BindingRecordRoundTrip := by
  unfold Obligations.BindingRecordRoundTrip
  exact ⟨fun b present fits => ⟨recordPresent_writeRecord present, readRecord_writeRecord present fits⟩,
    fun r b read => readRecord_fits read⟩

end Sys2Proof.Machine
end

section
/-! RETARGET (R89, R170, R171, R176): the marks, the move of holds, and the two ways of issuing. -/
namespace Sys2Proof.Machine

open State

variable {s : State}

/-! ## Marks (R99) -/

/-- A circuit's mark set, or cleared where there can be none. -/
theorem circuit_mark_eq {c : Nat} {new : Option Nat} (fits : c < 384 ∨ new = none) (d : Nat) :
    (s.mark c new).circuit d = if d = c then { s.circuit d with moving := new } else s.circuit d := by
  rw [circuit_mark]
  by_cases same : d = c
  · rw [if_pos same]
    by_cases low : d < 384
    · exact if_pos ⟨same.symm, low⟩
    · have none : new = none := fits.resolve_left fun lt => low (same ▸ lt)
      rw [if_neg fun both => low both.2, none, State.circuit_beyond s (Nat.le_of_not_lt low)]
      rfl
  · rw [if_neg same, if_neg fun both => same both.1.symm]

/-! ## The move of holds (R89) -/

theorem movedHolds_eq (pool : List Hold) (old new : Nat) :
    movedHolds pool old new =
      (contributions pool old).filter fun h => !(contributions pool new).any fun k => k.originator == h.originator := by
  rw [movedHolds]
  refine congrArg (fun f => (contributions pool old).filter f) (funext fun h => ?_)
  rw [contributions, List.any_filter]
  rfl

section
variable {pool moved : List Hold} {new : Nat}

theorem contributions_rehomed_same : contributions (moved.map fun h => { h with circuit := new }) new =
    moved.map fun h => { h with circuit := new } := by
  rw [contributions, List.filter_eq_self]
  intro h mem
  obtain ⟨k, _, rfl⟩ := List.mem_map.mp mem
  exact beq_self_eq_true new

theorem contributions_rehomed_other {c : Nat} (other : c ≠ new) :
    contributions (moved.map fun h => { h with circuit := new }) c = [] := by
  rw [contributions, List.filter_eq_nil_iff]
  intro h mem is
  obtain ⟨k, _, rfl⟩ := List.mem_map.mp mem
  exact other (beq_iff_eq.mp is).symm

end

theorem contributions_moveHolds_old {old new : Nat} (apart : old ≠ new) : contributions (s.moveHolds old new).holds old = [] := by
  rw [State.moveHolds, State.setHolds, contributions_append, contributions_removed, contributions_rehomed_other apart]
  rfl

theorem contributions_moveHolds_new {old new : Nat} (apart : old ≠ new) :
    contributions (s.moveHolds old new).holds new =
      contributions s.holds new ++ (movedHolds s.holds old new).map fun h => { h with circuit := new } := by
  rw [State.moveHolds, State.setHolds, contributions_append, contributions_removed_other _ apart.symm, contributions_rehomed_same]

theorem contributions_moveHolds_other {old new c : Nat} (notOld : c ≠ old) (notNew : c ≠ new) :
    contributions (s.moveHolds old new).holds c = contributions s.holds c := by
  rw [State.moveHolds, State.setHolds, contributions_append, contributions_removed_other _ notOld,
    contributions_rehomed_other notNew, List.append_nil]

/-! ## The continuation (R170) -/

theorem continuation_of_aborted {old new : Nat} {pos : SweepPosition} (aborted : s.sweeper.state = .aborted ⟨old, new, pos⟩) :
    s.sweeper.continuation old new = some ⟨old, new, pos⟩ := by
  rw [Sweeper.continuation, aborted]
  exact if_pos ⟨rfl, rfl⟩

theorem continuation_eq_none {old new : Nat} (other : ∀ pos, s.sweeper.state ≠ .aborted ⟨old, new, pos⟩) :
    s.sweeper.continuation old new = none := by
  cases found : s.sweeper.continuation old new with
  | none => rfl
  | some job =>
    obtain ⟨aborted, rfl, rfl⟩ := continuation_some found
    exact absurd aborted (other job.position)

theorem inactive_of_aborted {job : SweepJob} (aborted : s.sweeper.state = .aborted job) : s.sweeper.active = false := by
  rw [Sweeper.active, aborted]

section
variable {oldCircuit newCircuit : Half} (on : s.powered = true) (idle : s.sweeper.active = false)
  (fits : ¬ (383 < oldCircuit.toNat ∨ 383 < newCircuit.toNat ∨ oldCircuit.toNat = newCircuit.toNat))
  (serving : (s.attrs newCircuit.toNat).retired = false)
include on idle fits serving

theorem exec_retarget_fresh (none : s.sweeper.continuation oldCircuit.toNat newCircuit.toNat = none) :
    exec (.retarget oldCircuit newCircuit) s = .next (s.acted (s.issueFresh oldCircuit.toNat newCircuit.toNat)
      [(9, oldCircuit.toNat), (9, newCircuit.toNat), freshMark true,
       (10, (movedHolds s.holds oldCircuit.toNat newCircuit.toNat).length),
       (10, (contributions s.holds oldCircuit.toNat).length -
        (movedHolds s.holds oldCircuit.toNat newCircuit.toNat).length)]) := by
  rw [exec_retarget on]
  simp only [idle, fits, serving, none, if_false, Bool.false_eq_true]

theorem exec_retarget_reissued {job : SweepJob}
    (some : s.sweeper.continuation oldCircuit.toNat newCircuit.toNat = some job) :
    exec (.retarget oldCircuit newCircuit) s = .next (s.acted (s.reissue job)
      [(9, oldCircuit.toNat), (9, newCircuit.toNat), freshMark false, (12, job.position.code), (10, 0), (10, 0)]) := by
  rw [exec_retarget on]
  simp only [idle, fits, serving, some, if_false, Bool.false_eq_true]

end

/-- Settles O32: the checks, then the two ways of issuing. -/
theorem retargetIssues : Obligations.RetargetIssues := by
  unfold Obligations.RetargetIssues
  intro s oldCircuit newCircuit on old new
  refine ⟨fun active => ?active, fun idle beyond => ?beyond, fun idle lowOld lowNew apart retired => ?retired,
    fun idle lowOld lowNew apart serving other => ?fresh, fun pos lowOld lowNew apart serving aborted => ?reissued⟩
  case active => rw [exec_retarget on, if_pos active]
  case beyond => rw [exec_retarget on, if_neg (ne_true_of_eq_false idle), if_pos beyond]
  case retired => rw [exec_retarget on, if_neg (ne_true_of_eq_false idle), if_neg (by omega), if_pos retired]
  case fresh =>
    rw [exec_retarget_fresh on idle (by omega) serving (continuation_eq_none other)]
    refine ⟨_, rfl, rfl, fun c => ?_, ⟨?_, ?_, fun c notOld notNew => ?_, ?_⟩, ?_, rfl⟩
    · exact circuit_mark_eq (s := s) (Or.inl (Nat.lt_succ_of_le lowOld)) c
    · exact contributions_moveHolds_old (s := s) apart
    · rw [← movedHolds_eq]
      exact contributions_moveHolds_new (s := s) apart
    · exact contributions_moveHolds_other (s := s) notOld notNew
    · rw [← movedHolds_eq]
      rfl
    · exact sameButPending_acted _ fun _ => rfl
  case reissued =>
    rw [exec_retarget_reissued on (inactive_of_aborted aborted) (by omega) serving (continuation_of_aborted aborted)]
    refine ⟨_, rfl, rfl, fun c => ?_, rfl, ?_, rfl⟩
    · exact circuit_mark_eq (s := s) (Or.inl (Nat.lt_succ_of_le lowOld)) c
    · exact sameButPending_acted _ fun _ => rfl

end Sys2Proof.Machine
end

section
/-! The visits of a sweep and its abort (R172, R173, R175). -/
namespace Sys2Proof.Machine

open State

variable {s : State}

/-! ## The record at the position (R172) -/

/-- A group that does not name the old circuit is as a visit leaves it. -/
theorem visitedGroup_of_absent {l : List Nat} {old new : Nat} (absent : old ∉ l) : visitedGroup l old new = l := by
  have apart : ∀ c ∈ l, c ≠ old := fun c mem same => absent (same ▸ mem)
  rw [visitedGroup]
  split
  · exact List.filter_eq_self.mpr fun c mem => bne_iff_ne.mpr (apart c mem)
  · exact (List.map_congr_left fun c mem => if_neg (apart c mem)).trans (List.map_id l)

theorem visitedEntries_of_absent {l : List (Nat × Nat)} {old new : Nat} (absent : ∀ x ∈ l, x.1 ≠ old) :
    visitedEntries l old new = l := by
  rw [visitedEntries]
  split
  · exact List.filter_eq_self.mpr fun x mem => bne_iff_ne.mpr (absent x mem)
  · exact (List.map_congr_left fun x mem => if_neg (absent x mem)).trans (List.map_id l)

theorem position_ne {table other : SweepTable} (apart : table ≠ other) (k i : Nat) :
    (⟨table, k⟩ : SweepPosition) ≠ ⟨other, i⟩ := fun same => apart (congrArg SweepPosition.table same)

section
variable (old new k : Nat)

theorem rewriteRecord_bindings :
    s.rewriteRecord ⟨old, new, ⟨.bindings, k⟩⟩ =
      if (s.binding k).present = true ∧ (s.binding k).target = .circuit old then
        s.setBinding k { s.binding k with target := .circuit new }
      else s := by
  rw [State.rewriteRecord]
  refine if_congr ?_ rfl rfl
  rw [State.visitCounts, Bool.and_eq_true, beq_iff_eq]

theorem rewriteRecord_groups :
    s.rewriteRecord ⟨old, new, ⟨.groups, k⟩⟩ =
      if old ∈ s.group k then s.setGroup k (visitedGroup (s.group k) old new) else s := by
  rw [State.rewriteRecord]
  refine if_congr ?_ rfl rfl
  rw [State.visitCounts, List.contains_iff_mem]

theorem rewriteRecord_presets :
    s.rewriteRecord ⟨old, new, ⟨.presets, k⟩⟩ =
      if (s.preset k).entries.any (fun x => x.1 == old) then
        s.setPreset k { s.preset k with entries := visitedEntries (s.preset k).entries old new }
      else s := by
  rw [State.rewriteRecord]
  rfl

end

theorem binding_rewriteRecord (job : SweepJob) {i : Nat} (fits : i < 1024) :
    (s.rewriteRecord job).binding i =
      if job.position = ⟨.bindings, i⟩ ∧ (s.binding i).present = true ∧ (s.binding i).target = .circuit job.oldCircuit then
        { s.binding i with target := .circuit job.newCircuit }
      else s.binding i := by
  obtain ⟨old, new, ⟨table, k⟩⟩ := job
  cases table with
  | bindings =>
    rw [rewriteRecord_bindings]
    by_cases here : k = i
    · subst here
      simp only [true_and]
      split
      · rw [State.binding_setBinding, if_pos ⟨rfl, fits⟩]
      · rfl
    · rw [if_neg (c := _ ∧ _ ∧ _) fun both => here (congrArg SweepPosition.index both.1)]
      split
      · rw [State.binding_setBinding, if_neg fun both => here both.1]
      · rfl
  | groups =>
    rw [rewriteRecord_groups, if_neg (c := _ ∧ _) fun both => nomatch both.1]
    split <;> rfl
  | presets =>
    rw [rewriteRecord_presets, if_neg (c := _ ∧ _) fun both => nomatch both.1]
    split <;> rfl

theorem group_rewriteRecord (job : SweepJob) {g : Nat} (fits : g < 64) :
    (s.rewriteRecord job).group g =
      if job.position = ⟨.groups, g⟩ then visitedGroup (s.group g) job.oldCircuit job.newCircuit else s.group g := by
  obtain ⟨old, new, ⟨table, k⟩⟩ := job
  cases table with
  | bindings =>
    refine Eq.trans ?_ (if_neg (position_ne (by decide) _ _)).symm
    rw [rewriteRecord_bindings]
    split <;> rfl
  | groups =>
    rw [rewriteRecord_groups]
    by_cases here : k = g
    · subst here
      refine Eq.trans ?_ (if_pos rfl).symm
      split
      · rw [State.group_setGroup, if_pos ⟨rfl, fits⟩]
      · rename_i absent
        exact (visitedGroup_of_absent absent).symm
    · refine Eq.trans ?_ (if_neg fun same => here (congrArg SweepPosition.index same)).symm
      split
      · rw [State.group_setGroup, if_neg fun both => here both.1]
      · rfl
  | presets =>
    refine Eq.trans ?_ (if_neg (position_ne (by decide) _ _)).symm
    rw [rewriteRecord_presets]
    split <;> rfl

theorem preset_rewriteRecord (job : SweepJob) {p : Nat} (fits : p < 48) :
    (s.rewriteRecord job).preset p =
      if job.position = ⟨.presets, p⟩ then
        { s.preset p with entries := visitedEntries (s.preset p).entries job.oldCircuit job.newCircuit }
      else s.preset p := by
  obtain ⟨old, new, ⟨table, k⟩⟩ := job
  cases table with
  | bindings =>
    refine Eq.trans ?_ (if_neg (position_ne (by decide) _ _)).symm
    rw [rewriteRecord_bindings]
    split <;> rfl
  | groups =>
    refine Eq.trans ?_ (if_neg (position_ne (by decide) _ _)).symm
    rw [rewriteRecord_groups]
    split <;> rfl
  | presets =>
    rw [rewriteRecord_presets]
    by_cases here : k = p
    · subst here
      refine Eq.trans ?_ (if_pos rfl).symm
      split
      · rw [State.preset_setPreset, if_pos ⟨rfl, fits⟩]
      · rename_i absent
        rw [visitedEntries_of_absent fun x mem same => absent (List.any_eq_true.mpr ⟨x, mem, beq_iff_eq.mpr same⟩)]
    · refine Eq.trans ?_ (if_neg fun same => here (congrArg SweepPosition.index same)).symm
      split
      · rw [State.preset_setPreset, if_neg fun both => here both.1]
      · rfl

/-! ## One visit (R172, R173) -/

section
variable {job : SweepJob}

/-- A visit that is not the last. -/
theorem visit_of_next {pos : SweepPosition} (next : job.position.next = some pos) :
    s.visit job =
      { s.rewriteRecord job with
        sweeper := { state := .sweeping { job with position := pos },
                     changed := s.sweeper.changed + (s.visitCounts job).toNat } } := by
  rw [State.visit, next]

/-- The last visit: the sweep ends. -/
theorem visit_of_last (last : job.position.next = none) :
    s.visit job =
      ({ s.rewriteRecord job with
         sweeper := { state := .idle, changed := s.sweeper.changed + (s.visitCounts job).toNat } }.mark
        job.oldCircuit none).latchSweep .done job (s.sweeper.changed + (s.visitCounts job).toNat) := by
  rw [State.visit, last]

theorem visit_config (job : SweepJob) : (s.visit job).config = (s.rewriteRecord job).config := by
  cases next : job.position.next with
  | none => rw [visit_of_last next]; rfl
  | some pos => rw [visit_of_next next]

/-- What a visit that is not the last leaves of the sweeper, the marks and the events. -/
theorem visit_sweeper_of_next {pos : SweepPosition} (next : job.position.next = some pos) :
    (s.visit job).sweeper =
        { state := .sweeping { job with position := pos }, changed := s.sweeper.changed + (s.visitCounts job).toNat } ∧
      (s.visit job).circuits = s.circuits ∧ (s.visit job).events = s.events := by
  rw [visit_of_next next, s.rewriteRecord_frame job]
  exact ⟨rfl, rfl, rfl⟩

theorem visit_sweeper_of_last (last : job.position.next = none) :
    (s.visit job).sweeper = { state := .idle, changed := s.sweeper.changed + (s.visitCounts job).toNat } ∧
      (∀ c, (s.visit job).circuit c =
        if c = job.oldCircuit then { s.circuit c with moving := none } else s.circuit c) ∧
      (s.visit job).events = (s.latchSweep .done job (s.sweeper.changed + (s.visitCounts job).toNat)).events := by
  rw [visit_of_last last, s.rewriteRecord_frame job]
  exact ⟨rfl, fun c => circuit_mark_eq (s := s) (Or.inr rfl) c, rfl⟩

theorem visit_live (job : SweepJob) (n : Nat) : (s.visit job).live n = s.live n := by
  rw [s.visit_frame job]
  rfl

/-- A visit and its recomputation leave everything else as it was. -/
theorem visit_recomputed_frame (job : SweepJob) :
    let t := s.recomputeImages (s.visit job)
    t = { s with config := { s.config with bindings := t.config.bindings, groups := t.config.groups,
                                           presets := t.config.presets },
                 circuits := t.circuits, events := t.events, sweeper := t.sweeper, stations := t.stations } := by
  rw [s.visit_frame job]
  rfl

theorem sweepAborted_circuit (job : SweepJob) (c : Nat) :
    (s.sweepAborted job).circuit c = if c = job.oldCircuit then { s.circuit c with moving := none } else s.circuit c :=
  circuit_mark_eq (s := s) (Or.inr rfl) c

theorem sameButPending_sweepAborted (job : SweepJob) : s.SameButPending (s.sweepAborted job) :=
  sameButPending_of_live s (after := (s.abortSweep job).latchSweep .aborted job s.sweeper.changed) fun _ => rfl

theorem exec_sweepVisit_of_sweeping (on : s.powered = true) (sweeping : s.sweeper.state = .sweeping job) :
    exec .sweepVisit s = .next (s.recomputeImages (s.visit job)) := by
  rw [exec_sweepVisit on, sweeping]

theorem exec_sweepAbort_of_sweeping (on : s.powered = true) (sweeping : s.sweeper.state = .sweeping job) :
    exec .sweepAbort s = .next (s.sweepAborted job) := by
  rw [exec_sweepAbort on, sweeping]

end

/-- With no sweep in flight there is no visit to take and nothing to abort. -/
theorem exec_of_inactive (on : s.powered = true) (inactive : s.sweeper.active = false) :
    exec .sweepVisit s = .next s ∧ exec .sweepAbort s = .next (s.refusedWith 0x39 .notFound .none []) := by
  rw [exec_sweepVisit on, exec_sweepAbort on]
  rw [Sweeper.active] at inactive
  cases state : s.sweeper.state with
  | idle => exact ⟨rfl, rfl⟩
  | sweeping job =>
    rw [state] at inactive
    cases inactive
  | aborted job => exact ⟨rfl, rfl⟩

/-- Settles O33: a visit by its record and its position, and an abort by its action. -/
theorem sweepVisitsAndAbort : Obligations.SweepVisitsAndAbort := by
  unfold Obligations.SweepVisitsAndAbort
  refine ⟨fun s job on sweeping => ?visit, fun s on inactive => exec_of_inactive on inactive, fun s job on sweeping => ?abort⟩
  case visit =>
    rw [exec_sweepVisit_of_sweeping on sweeping]
    have config : (s.recomputeImages (s.visit job)).config = (s.rewriteRecord job).config := visit_config job
    refine ⟨_, rfl, fun i fits => ?_, fun g fits => ?_, fun p fits => ?_, ?_, sameButPending_of_live s (visit_live job),
      visit_recomputed_frame job⟩
    · refine Eq.trans ?_ (binding_rewriteRecord job fits)
      rw [State.binding, config, State.binding]
    · refine Eq.trans ?_ ((group_rewriteRecord job fits).trans (if_congr Iff.rfl ?_ rfl))
      · rw [State.group, config, State.group]
      · rw [visitedGroup]
        exact if_congr List.contains_iff_mem rfl rfl
    · refine Eq.trans ?_ (preset_rewriteRecord job fits)
      rw [State.preset, config, State.preset]
    · cases next : job.position.next with
      | some pos => exact visit_sweeper_of_next next
      | none => exact visit_sweeper_of_last next
  case abort =>
    rw [exec_sweepAbort_of_sweeping on sweeping]
    exact ⟨_, rfl, rfl, sweepAborted_circuit job, rfl, rfl, rfl, sameButPending_sweepAborted job, rfl⟩

end Sys2Proof.Machine
end
